-- ==== Sys2Proof/Config.lean ====
section
/-! DEFINITION. The implementation's parameters (00_scope.md R4) and the values the spec leaves open. -/

namespace Sys2Proof

/-- `MEM_SIZE`: "exactly 4096 addressable bytes". -/
@[simp] abbrev Config.memSize : Nat := 4096

/-- `PROGRAM_START`: where `load_rom` puts the program and where `pc` stands after reset. -/
@[simp] abbrev Config.programStart : Nat := 0x200

/-- `FONT_BASE`: derived by the spec from R86 (90_conflicts.md C12). -/
@[simp] abbrev Config.fontBase : Nat := 0

/-- `FONT_SIZE`: 16 glyphs of `GLYPH_SIZE` bytes. -/
@[simp] abbrev Config.fontSize : Nat := 80

/-- `GLYPH_SIZE`: "each font glyph occupies 5 bytes". -/
@[simp] abbrev Config.glyphSize : Nat := 5

/-- `NUM_REGS`. -/
@[simp] abbrev Config.numRegs : Nat := 16

/-- `REG_WIDTH` in bits: a general register. -/
@[simp] abbrev Config.regWidth : Nat := 8

/-- `I_WIDTH` in bits: "one 16-bit address register". -/
@[simp] abbrev Config.iWidth : Nat := 16

/-- `PC_WIDTH` in bits: "16-bit byte offset into memory"; a return address has it too (10_state.md R14). -/
@[simp] abbrev Config.pcWidth : Nat := 16

/-- `TIMER_WIDTH` in bits: each of the two timers. -/
@[simp] abbrev Config.timerWidth : Nat := 8

/-- `INSTR_WIDTH` in bytes: what every cycle and every taken skip adds to `pc`. -/
@[simp] abbrev Config.instrWidth : Nat := 2

/-- `STACK_DEPTH`. -/
@[simp] abbrev Config.stackDepth : Nat := 16

/-- `DISPLAY_W`. -/
@[simp] abbrev Config.displayW : Nat := 64

/-- `DISPLAY_H`. -/
@[simp] abbrev Config.displayH : Nat := 32

/-- `SPRITE_W`. -/
@[simp] abbrev Config.spriteW : Nat := 8

/-- `NUM_KEYS`. -/
@[simp] abbrev Config.numKeys : Nat := 16

/-- `FONT[k]` for `k` in `0..79`: the glyph bytes are a parameter (R4; 92_eei_decisions.md D8,
93_implementation_defined.md U12). No body: a claim holds for every font (log entry 1, DESIGN CHOICE, safe).
It is asked for `k < Config.fontSize` only. -/
opaque Config.font : Nat → BitVec 8

/-- `draw()` (R6, 42_alu.md R83): the byte of the `k`-th draw since power-on, any value, under no law
(92_eei_decisions.md D12). No body: a claim holds for every sequence of draws (log entry 2, DESIGN CHOICE, safe). -/
opaque Config.randomByte : Nat → BitVec 8

end Sys2Proof
end

