-- ==== Sys2Proof/Word.lean ====
section
/-! DEFINITION. The machine's words: the widths the spec names (00_scope.md R4, R5), all unsigned. -/

namespace Sys2Proof

/-- A byte: a memory cell, an immediate `kk` (20_memory.md R28, 30_encoding.md R44). -/
abbrev Byte := BitVec 8

/-- A 16-bit word: an instruction word, a value of `zext_16` (00_scope.md R6, 30_encoding.md R42). -/
abbrev Word := BitVec 16

/-- What a general register holds (R4 `REG_WIDTH`). -/
abbrev RegVal := BitVec Config.regWidth

/-- What a timer holds (R4 `TIMER_WIDTH`). -/
abbrev TimerVal := BitVec Config.timerWidth

/-- What `I` holds (R4 `I_WIDTH`). -/
abbrev IndexVal := BitVec Config.iWidth

/-- What `pc` and a stack entry hold (R4 `PC_WIDTH`). -/
abbrev PcVal := BitVec Config.pcWidth

/-- A nibble of an instruction word, the count `n` among them (30_encoding.md R43). -/
abbrev Nibble := BitVec 4

/-- The number of a general register, `0..15` (10_state.md R10). -/
abbrev Reg := BitVec 4

/-- The logical index of a key, `0..15` (10_state.md R19). -/
abbrev Key := BitVec 4

/-- A 12-bit address operand `nnn` (30_encoding.md R44). -/
abbrev Addr := BitVec 12

end Sys2Proof
end

