-- ==== Sys2Proof/Syntax.lean ====
section
/-! DEFINITION. The 35 decoded instructions of 30_encoding.md R45, one constructor per row of spec/opcode_table.json,
in the table's order. A decoded instruction "carries only the operand fields relevant to its variant" (R44). -/

namespace Sys2Proof

/-- The decoded instruction (30_encoding.md R45). -/
inductive Instr where
  /-- `Clear`, `00E0`, 44_display.md R90. -/
  | clear
  /-- `Return`, `00EE`, 41_flow.md R63. -/
  | ret
  /-- `Sys(nnn)`, `0nnn` other than the two above, 41_flow.md R62. -/
  | sys (nnn : Addr)
  /-- `Jump(nnn)`, `1nnn`, 41_flow.md R64. -/
  | jump (nnn : Addr)
  /-- `Call(nnn)`, `2nnn`, 41_flow.md R65. -/
  | call (nnn : Addr)
  /-- `SkipEq(x, kk)`, `3xkk`, 41_flow.md R66. -/
  | skipEq (x : Reg) (kk : Byte)
  /-- `SkipNeq(x, kk)`, `4xkk`, 41_flow.md R67. -/
  | skipNeq (x : Reg) (kk : Byte)
  /-- `SkipEqReg(x, y)`, `5xy0`, 41_flow.md R68. -/
  | skipEqReg (x y : Reg)
  /-- `LoadImm(x, kk)`, `6xkk`, 42_alu.md R72. -/
  | loadImm (x : Reg) (kk : Byte)
  /-- `AddImm(x, kk)`, `7xkk`, 42_alu.md R73. -/
  | addImm (x : Reg) (kk : Byte)
  /-- `LoadReg(x, y)`, `8xy0`, 42_alu.md R74. -/
  | loadReg (x y : Reg)
  /-- `Or(x, y)`, `8xy1`, 42_alu.md R75. -/
  | orReg (x y : Reg)
  /-- `And(x, y)`, `8xy2`, 42_alu.md R76. -/
  | andReg (x y : Reg)
  /-- `Xor(x, y)`, `8xy3`, 42_alu.md R77. -/
  | xorReg (x y : Reg)
  /-- `AddReg(x, y)`, `8xy4`, 42_alu.md R78. -/
  | addReg (x y : Reg)
  /-- `SubReg(x, y)`, `8xy5`, 42_alu.md R79. -/
  | subReg (x y : Reg)
  /-- `ShiftRight(x)`, `8xy6` with `y` ignored (30_encoding.md R49), 42_alu.md R80. -/
  | shiftRight (x : Reg)
  /-- `SubnReg(x, y)`, `8xy7`, 42_alu.md R81. -/
  | subnReg (x y : Reg)
  /-- `ShiftLeft(x)`, `8xyE` with `y` ignored (30_encoding.md R49), 42_alu.md R82. -/
  | shiftLeft (x : Reg)
  /-- `SkipNeqReg(x, y)`, `9xy0`, 41_flow.md R69. -/
  | skipNeqReg (x y : Reg)
  /-- `LoadIndex(nnn)`, `Annn`, 43_index_memory.md R84. -/
  | loadIndex (nnn : Addr)
  /-- `JumpOffset(nnn)`, `Bnnn`, 41_flow.md R70. -/
  | jumpOffset (nnn : Addr)
  /-- `Random(x, kk)`, `Cxkk`, 42_alu.md R83. -/
  | random (x : Reg) (kk : Byte)
  /-- `Draw(x, y, n)`, `Dxyn`, 44_display.md R91. -/
  | draw (x y : Reg) (n : Nibble)
  /-- `SkipKeyPressed(x)`, `Ex9E`, 45_keypad_timers.md R94. -/
  | skipKeyPressed (x : Reg)
  /-- `SkipKeyNotPressed(x)`, `ExA1`, 45_keypad_timers.md R95. -/
  | skipKeyNotPressed (x : Reg)
  /-- `StoreDelayTimer(x)`, `Fx07`, 45_keypad_timers.md R97. -/
  | storeDelayTimer (x : Reg)
  /-- `WaitKey(x)`, `Fx0A`, 45_keypad_timers.md R96. -/
  | waitKey (x : Reg)
  /-- `SetDelayTimer(x)`, `Fx15`, 45_keypad_timers.md R98. -/
  | setDelayTimer (x : Reg)
  /-- `SetSoundTimer(x)`, `Fx18`, 45_keypad_timers.md R99. -/
  | setSoundTimer (x : Reg)
  /-- `AddIndex(x)`, `Fx1E`, 43_index_memory.md R85. -/
  | addIndex (x : Reg)
  /-- `LoadFontAddr(x)`, `Fx29`, 43_index_memory.md R86. -/
  | loadFontAddr (x : Reg)
  /-- `StoreBCD(x)`, `Fx33`, 43_index_memory.md R87. -/
  | storeBcd (x : Reg)
  /-- `StoreRegs(x)`, `Fx55`, 43_index_memory.md R88. -/
  | storeRegs (x : Reg)
  /-- `LoadRegs(x)`, `Fx65`, 43_index_memory.md R89. -/
  | loadRegs (x : Reg)
deriving DecidableEq, Repr

end Sys2Proof
end

