-- ==== Sys2Proof/WellFormed.lean ====
section
/-! DEFINITION. Which terms of `Instr` the decoder can produce (30_encoding.md R51). Every operand field has exactly
the width of its encoding, so the only ill-formed terms are the two `Sys` words that name other instructions. -/

namespace Sys2Proof

/-- A value `Decode` can produce: "`Sys(0x0E0)` and `Sys(0x0EE)` excluded (those two are not values `Decode`
produces)" (30_encoding.md R51). -/
def Instr.wellFormed : Instr → Bool
  | .sys nnn => nnn != 0x0E0#12 && nnn != 0x0EE#12
  | .clear | .ret | .jump _ | .call _ | .skipEq _ _ | .skipNeq _ _ | .skipEqReg _ _ | .loadImm _ _ | .addImm _ _
  | .loadReg _ _ | .orReg _ _ | .andReg _ _ | .xorReg _ _ | .addReg _ _ | .subReg _ _ | .shiftRight _ | .subnReg _ _
  | .shiftLeft _ | .skipNeqReg _ _ | .loadIndex _ | .jumpOffset _ | .random _ _ | .draw _ _ _ | .skipKeyPressed _
  | .skipKeyNotPressed _ | .storeDelayTimer _ | .waitKey _ | .setDelayTimer _ | .setSoundTimer _ | .addIndex _
  | .loadFontAddr _ | .storeBcd _ | .storeRegs _ | .loadRegs _ => true

end Sys2Proof
end

