-- ==== Sys2Proof/Decode.lean ====
section
/-! DEFINITION. The decoder (30_encoding.md R43 to R49) and after it the encoder, its inverse (R51). The opcode map
is R46's table, row for row and in its order; rows 5 to 35 are the conventional CHIP-8 patterns, which the spec
takes from general knowledge (92_eei_decisions.md D18, log entry 6, UNVERIFIED, unsafe). -/

namespace Sys2Proof

/-- The word two bytes in memory make: the byte at the lower address is the high byte (20_memory.md R30). -/
def wordOfBytes (hi lo : Byte) : Word := hi ++ lo

/-- `n0 = w[15:12]`, the major opcode (R43). -/
def fieldN0 (w : Word) : Nibble := w.extractLsb' 12 4

/-- `x = w[11:8]` (R43). -/
def fieldX (w : Word) : Reg := w.extractLsb' 8 4

/-- `y = w[7:4]` (R43). -/
def fieldY (w : Word) : Reg := w.extractLsb' 4 4

/-- `n = w[3:0]` (R43). -/
def fieldN (w : Word) : Nibble := w.extractLsb' 0 4

/-- `kk = w[7:0]` (R43). -/
def fieldKK (w : Word) : Byte := w.extractLsb' 0 8

/-- `nnn = w[11:0]` (R43). -/
def fieldNNN (w : Word) : Addr := w.extractLsb' 0 12

/-- A row of R46's opcode map: the pattern's four digits, most significant first, `none` for an operand nibble
(`x`, `y`, `k`, `n`), and how the row's instruction is assembled from the word. -/
structure OpcodeRow where
  n0 : Nibble
  n1 : Option Nibble
  n2 : Option Nibble
  n3 : Option Nibble
  make : Word → Instr

/-- A digit of a pattern accepts a nibble: an operand digit accepts all, a constant digit itself alone. -/
def digitAccepts (d : Option Nibble) (n : Nibble) : Bool :=
  match d with
  | none => true
  | some c => c == n

/-- The word matches the row's pattern (R46: `w & mask = match`). -/
def rowMatches (r : OpcodeRow) (w : Word) : Bool :=
  r.n0 == fieldN0 w && digitAccepts r.n1 (fieldX w) && digitAccepts r.n2 (fieldY w) && digitAccepts r.n3 (fieldN w)

/-- R46's opcode map, rows 1 to 35 in decode order. -/
def opcodeMap : List OpcodeRow :=
  [ ⟨0x0, some 0x0, some 0xE, some 0x0, fun _ => .clear⟩,
    ⟨0x0, some 0x0, some 0xE, some 0xE, fun _ => .ret⟩,
    ⟨0x0, none, none, none, fun w => .sys (fieldNNN w)⟩,
    ⟨0x1, none, none, none, fun w => .jump (fieldNNN w)⟩,
    ⟨0x2, none, none, none, fun w => .call (fieldNNN w)⟩,
    ⟨0x3, none, none, none, fun w => .skipEq (fieldX w) (fieldKK w)⟩,
    ⟨0x4, none, none, none, fun w => .skipNeq (fieldX w) (fieldKK w)⟩,
    ⟨0x5, none, none, some 0x0, fun w => .skipEqReg (fieldX w) (fieldY w)⟩,
    ⟨0x6, none, none, none, fun w => .loadImm (fieldX w) (fieldKK w)⟩,
    ⟨0x7, none, none, none, fun w => .addImm (fieldX w) (fieldKK w)⟩,
    ⟨0x8, none, none, some 0x0, fun w => .loadReg (fieldX w) (fieldY w)⟩,
    ⟨0x8, none, none, some 0x1, fun w => .orReg (fieldX w) (fieldY w)⟩,
    ⟨0x8, none, none, some 0x2, fun w => .andReg (fieldX w) (fieldY w)⟩,
    ⟨0x8, none, none, some 0x3, fun w => .xorReg (fieldX w) (fieldY w)⟩,
    ⟨0x8, none, none, some 0x4, fun w => .addReg (fieldX w) (fieldY w)⟩,
    ⟨0x8, none, none, some 0x5, fun w => .subReg (fieldX w) (fieldY w)⟩,
    ⟨0x8, none, none, some 0x6, fun w => .shiftRight (fieldX w)⟩,
    ⟨0x8, none, none, some 0x7, fun w => .subnReg (fieldX w) (fieldY w)⟩,
    ⟨0x8, none, none, some 0xE, fun w => .shiftLeft (fieldX w)⟩,
    ⟨0x9, none, none, some 0x0, fun w => .skipNeqReg (fieldX w) (fieldY w)⟩,
    ⟨0xA, none, none, none, fun w => .loadIndex (fieldNNN w)⟩,
    ⟨0xB, none, none, none, fun w => .jumpOffset (fieldNNN w)⟩,
    ⟨0xC, none, none, none, fun w => .random (fieldX w) (fieldKK w)⟩,
    ⟨0xD, none, none, none, fun w => .draw (fieldX w) (fieldY w) (fieldN w)⟩,
    ⟨0xE, none, some 0x9, some 0xE, fun w => .skipKeyPressed (fieldX w)⟩,
    ⟨0xE, none, some 0xA, some 0x1, fun w => .skipKeyNotPressed (fieldX w)⟩,
    ⟨0xF, none, some 0x0, some 0x7, fun w => .storeDelayTimer (fieldX w)⟩,
    ⟨0xF, none, some 0x0, some 0xA, fun w => .waitKey (fieldX w)⟩,
    ⟨0xF, none, some 0x1, some 0x5, fun w => .setDelayTimer (fieldX w)⟩,
    ⟨0xF, none, some 0x1, some 0x8, fun w => .setSoundTimer (fieldX w)⟩,
    ⟨0xF, none, some 0x1, some 0xE, fun w => .addIndex (fieldX w)⟩,
    ⟨0xF, none, some 0x2, some 0x9, fun w => .loadFontAddr (fieldX w)⟩,
    ⟨0xF, none, some 0x3, some 0x3, fun w => .storeBcd (fieldX w)⟩,
    ⟨0xF, none, some 0x5, some 0x5, fun w => .storeRegs (fieldX w)⟩,
    ⟨0xF, none, some 0x6, some 0x5, fun w => .loadRegs (fieldX w)⟩ ]

/-- `Decode` (R45): the first row that matches gives the instruction; `none` is the spec's `Unsupported` (R47). -/
def decodeWord (w : Word) : Option Instr :=
  (opcodeMap.find? (fun r => rowMatches r w)).map (fun r => r.make w)

/-- What the decoder makes of a run of bytes. -/
inductive Decoded where
  /-- The first two bytes are this instruction. -/
  | instr (i : Instr)
  /-- The first two bytes are a word that matches no row (R47): the cycle takes `UnsupportedOpcode`. -/
  | unsupported (w : Word)
  /-- Fewer than two bytes: no word to decode. The cycle never asks this. -/
  | truncated
deriving DecidableEq, Repr

/-- The decoder on bytes as memory holds them; every instruction is two bytes (R42), what follows is not read. -/
def decode : List Byte → Decoded
  | hi :: lo :: _ =>
    match decodeWord (wordOfBytes hi lo) with
    | some i => .instr i
    | none => .unsupported (wordOfBytes hi lo)
  | [] | [_] => .truncated

/-- The instruction read from a row's word of spec/opcode_table.json, whose bit 0 is the word's least significant
bit: the word's two bytes as memory holds them, given to the decoder. -/
def decodeTableWord (nbits w : Nat) : Option Instr :=
  let word := BitVec.ofNat 16 (w % 2 ^ nbits)
  match decode [word.extractLsb' 8 8, word.extractLsb' 0 8] with
  | .instr i => some i
  | .unsupported _ => none
  | .truncated => none

/-- `NNN` format (R43): `op nnn`. -/
def encodeNNN (op : Nibble) (nnn : Addr) : Word := op ++ nnn

/-- `XKK` format (R43): `op x kk`. -/
def encodeXKK (op : Nibble) (x : Reg) (kk : Byte) : Word := op ++ x ++ kk

/-- `XY` and `XYN` formats (R43): `op x y sub`. -/
def encodeXY (op : Nibble) (x y : Reg) (sub : Nibble) : Word := op ++ x ++ y ++ sub

/-- `X` format (R43): `op x sub` with `sub` a byte. -/
def encodeX (op : Nibble) (x : Reg) (sub : Byte) : Word := op ++ x ++ sub

/-- `Encode` (R51): the operands placed in the row's pattern; the shifts' ignored `y` nibble is encoded as 0. -/
def encode : Instr → Word
  | .clear => 0x00E0
  | .ret => 0x00EE
  | .sys nnn => encodeNNN 0x0 nnn
  | .jump nnn => encodeNNN 0x1 nnn
  | .call nnn => encodeNNN 0x2 nnn
  | .skipEq x kk => encodeXKK 0x3 x kk
  | .skipNeq x kk => encodeXKK 0x4 x kk
  | .skipEqReg x y => encodeXY 0x5 x y 0x0
  | .loadImm x kk => encodeXKK 0x6 x kk
  | .addImm x kk => encodeXKK 0x7 x kk
  | .loadReg x y => encodeXY 0x8 x y 0x0
  | .orReg x y => encodeXY 0x8 x y 0x1
  | .andReg x y => encodeXY 0x8 x y 0x2
  | .xorReg x y => encodeXY 0x8 x y 0x3
  | .addReg x y => encodeXY 0x8 x y 0x4
  | .subReg x y => encodeXY 0x8 x y 0x5
  | .shiftRight x => encodeXY 0x8 x 0x0 0x6
  | .subnReg x y => encodeXY 0x8 x y 0x7
  | .shiftLeft x => encodeXY 0x8 x 0x0 0xE
  | .skipNeqReg x y => encodeXY 0x9 x y 0x0
  | .loadIndex nnn => encodeNNN 0xA nnn
  | .jumpOffset nnn => encodeNNN 0xB nnn
  | .random x kk => encodeXKK 0xC x kk
  | .draw x y n => encodeXY 0xD x y n
  | .skipKeyPressed x => encodeX 0xE x 0x9E
  | .skipKeyNotPressed x => encodeX 0xE x 0xA1
  | .storeDelayTimer x => encodeX 0xF x 0x07
  | .waitKey x => encodeX 0xF x 0x0A
  | .setDelayTimer x => encodeX 0xF x 0x15
  | .setSoundTimer x => encodeX 0xF x 0x18
  | .addIndex x => encodeX 0xF x 0x1E
  | .loadFontAddr x => encodeX 0xF x 0x29
  | .storeBcd x => encodeX 0xF x 0x33
  | .storeRegs x => encodeX 0xF x 0x55
  | .loadRegs x => encodeX 0xF x 0x65

/-- The two bytes of an instruction as memory holds them, high byte first (20_memory.md R30). -/
def encodeBytes (i : Instr) : List Byte := [(encode i).extractLsb' 8 8, (encode i).extractLsb' 0 8]

end Sys2Proof
end

