-- ==== Sys2Proof/Machine/State.lean ====
section
/-! DEFINITION. The machine's state as plain data (10_state.md), its faults, the events of its environment, and the
state after reset. -/

namespace Sys2Proof.Machine

/-- The seven faults with their diagnostic values (60_exceptions.md R100 to R107; 10_state.md R22). Taking one is a NEXT
state whose `run` is `halted` (R112, log entry 7): no step answers the host's outcome `fault`, so each constructor is
data of the fault record. Every one is safe: the machine stops as the spec says. -/
inductive Fault where
  /-- R101: raised by `load_rom` when the ROM does not fit; records its length. Safe: the spec's own fault. -/
  | programTooLarge (len : Nat)
  /-- R102: raised by the decode phase on a word of no row; records the word and its address. Safe: the spec's own fault. -/
  | unsupportedOpcode (word : Word) (pc : PcVal)
  /-- R103: raised by the fetch phase when `pc + 1 > 4095`. Safe: the spec's own fault. -/
  | programCounterOutOfBounds (pc : PcVal)
  /-- R104: raised by `Call` when `sp = 16`. Safe: the spec's own fault. -/
  | callStackOverflow (pc : PcVal)
  /-- R105: raised by `Return` when `sp = 0`. Safe: the spec's own fault. -/
  | callStackUnderflow (pc : PcVal)
  /-- R106: raised by `Draw`, `StoreBCD`, `StoreRegs`, `LoadRegs` past address 4095; records the first offending address.
  Safe: the spec adds it (D6) where the source is silent. -/
  | dataAddressOutOfBounds (addr : IndexVal) (pc : PcVal)
  /-- R107: raised by the two key skips when `V[x] > 15`; records that value. Safe: the spec adds it (D7). -/
  | keyIndexOutOfRange (key : RegVal) (pc : PcVal)
deriving DecidableEq, Repr

/-- Why a step has no meaning. Every instruction of this hardware has one, so no step answers a refusal. -/
inductive Refusal where
  /-- Raised by an arm of `exec` whose instruction has no meaning yet; safe. No arm of this model raises it. -/
  | notModelled (mnemonic : String)
deriving DecidableEq, Repr

/-- The run state (10_state.md R21). -/
inductive Run where
  /-- The next `step` event fetches an instruction. -/
  | running
  /-- A `WaitKey` with destination `x` waits for its key. -/
  | waitKey (x : Reg)
  /-- A fault was raised; only `reset` leaves this. Holds the fault record (R22). -/
  | halted (f : Fault)
deriving DecidableEq, Repr

/-- The events that change the state, the rows of 40_cycle.md R52. -/
inductive Event where
  /-- `reset`, always enabled (R123). -/
  | reset
  /-- `load_rom(bytes)` (R124). -/
  | loadRom (bytes : List Byte)
  /-- `step`: one instruction cycle (R53). -/
  | step
  /-- `wake`: the interpreter completes a `WaitKey` (R59). -/
  | wake
  /-- `tick`: both timers count down (R115). -/
  | tick
  /-- `set_key(k, pressed)` (R116). -/
  | setKey (k : Key) (pressed : Bool)
deriving DecidableEq, Repr

/-- The bytes that differ from the reset contents: addresses strictly rising (log entry 5). -/
abbrev Memory := List Host.Cell

/-- The display, `px[column][row]` (10_state.md R18). -/
abbrev Display := Vector (Vector Bool Config.displayH) Config.displayW

/-- The whole state. The fields to `run` are the tuple of 10_state.md; `loadedOrStarted` is the bit of R124; `schedule`
and `draws` are the model's own and stand for what the spec leaves to the environment. -/
structure State where
  /-- `V[0..15]` (R10); `V[15]` is VF (R11). -/
  v : Vector RegVal Config.numRegs
  /-- The index register `I` (R12). -/
  i : IndexVal
  /-- The program counter (R13). -/
  pc : PcVal
  /-- The number of live stack entries, `0..16` (R14). -/
  sp : Fin (Config.stackDepth + 1)
  /-- The call stack's entries (R14); those at `sp` and above are never read. -/
  stack : Vector PcVal Config.stackDepth
  /-- The delay timer `DT` (R15). -/
  dt : TimerVal
  /-- The sound timer `ST` (R16). -/
  st : TimerVal
  /-- Main memory (R17). -/
  mem : Memory
  /-- The display (R18). -/
  px : Display
  /-- The key states, true is down (R19). -/
  key : Vector Bool Config.numKeys
  /-- The last-transition slot (R20). -/
  lastKey : Option Key
  /-- The run state (R21). -/
  run : Run
  /-- `loaded_or_started` (70_reset_and_hazards.md R124): `load_rom` is no longer accepted. -/
  loadedOrStarted : Bool
  /-- MODEL'S OWN: the events the environment issues next, first to last (40_cycle.md R61, log entry 8). -/
  schedule : List Event
  /-- MODEL'S OWN: how many random bytes have been drawn (42_alu.md R83, log entry 2). -/
  draws : Nat
deriving DecidableEq, Repr

/-- What a meaning, an event or a step answers. -/
abbrev Result := Host.Outcome State Fault Refusal

/-- The state after `reset` (10_state.md R26, 70_reset_and_hazards.md R123). The stack's entries are "unspecified and
unobservable": DESIGN CHOICE 0 (log entry 4, unsafe). Memory lists nothing: every byte reads its reset content. -/
def State.reset : State where
  v := Vector.replicate Config.numRegs 0
  i := 0
  pc := BitVec.ofNat Config.pcWidth Config.programStart
  sp := 0
  stack := Vector.replicate Config.stackDepth 0
  dt := 0
  st := 0
  mem := []
  px := Vector.replicate Config.displayW (Vector.replicate Config.displayH false)
  key := Vector.replicate Config.numKeys false
  lastKey := none
  run := .running
  loadedOrStarted := false
  schedule := []
  draws := 0

end Sys2Proof.Machine
end

