-- ==== Sys2Proof/Machine/Ops.lean ====
section
/-! DEFINITION. The named operations over memory, registers, stack, display and keypad (00_scope.md R6), and taking a
fault as one shared operation (60_exceptions.md R112). -/

namespace Sys2Proof.Machine

/-- What an address holds after reset (10_state.md R26, 20_memory.md R29): the font, and 0 everywhere else. It is what
an unlisted address reads as. -/
def Memory.base (a : Nat) : Byte :=
  if Config.fontBase ≤ a ∧ a < Config.fontBase + Config.fontSize then Config.font (a - Config.fontBase) else 0

/-- The byte at an address (R6 `MemRead`): the listed one, else the reset content. -/
def Memory.read : Memory → Nat → Byte
  | [], a => Memory.base a
  | (k, b) :: m, a => if k = a then b else Memory.read m a

/-- The list without an address. -/
def Memory.erase (m : Memory) (a : Nat) : Memory := m.filter (fun c => c.1 != a)

/-- The list with a cell put before the first higher address. -/
def Memory.insert : Memory → Host.Cell → Memory
  | [], c => [c]
  | d :: m, c => if c.1 < d.1 then c :: d :: m else d :: Memory.insert m c

/-- The write of one byte (R6 `MemWrite`): the old entry goes, and a byte that differs from the reset content is listed,
so that equal memories are equal lists. -/
def Memory.write (m : Memory) (a : Nat) (b : Byte) : Memory :=
  if b = Memory.base a then m.erase a else (m.erase a).insert (a, b)

/-- The canonical form: addresses strictly rising and inside memory, no entry equal to the reset content. -/
abbrev Memory.wf (m : Memory) : Prop :=
  m.Pairwise (fun c d => c.1 < d.1) ∧ ∀ c ∈ m, c.1 < Config.memSize ∧ c.2 ≠ Memory.base c.1

/-- Bytes written one by one at rising addresses. -/
def Memory.writeBytes : Memory → Nat → List Byte → Memory
  | m, _, [] => m
  | m, a, b :: bs => Memory.writeBytes (m.write a b) (a + 1) bs

/-- `n` bytes read one by one at rising addresses. -/
def Memory.readBytes (m : Memory) (a n : Nat) : List Byte := (List.range n).map (fun k => m.read (a + k))

/-- `V[x]` (R6, 10_state.md R10). -/
def State.getV (s : State) (x : Reg) : RegVal := s.v[x.toNat]'x.isLt

/-- `V[x] <- b` (R6, 10_state.md R10). -/
def State.setV (s : State) (x : Reg) (b : RegVal) : State := { s with v := s.v.set x.toNat b x.isLt }

/-- The number of the flag register, `VF = V[15]` (10_state.md R11). -/
def flagReg : Reg := 0xF

/-- `VF` (10_state.md R11). -/
def State.vf (s : State) : RegVal := s.getV flagReg

/-- `pc <- target` (R6). -/
def State.setPc (s : State) (target : PcVal) : State := { s with pc := target }

/-- `I <- a` (R6). -/
def State.setI (s : State) (a : IndexVal) : State := { s with i := a }

/-- The address of the instruction in execution: `pc` has already been advanced past it (40_cycle.md R55). -/
def State.instrAddr (s : State) : PcVal := s.pc - BitVec.ofNat Config.pcWidth Config.instrWidth

/-- Fault entry on the state before the faulting event (60_exceptions.md R112): `run <- HALTED(f, info)` and nothing
else. -/
def State.halt (s : State) (f : Fault) : State := { s with run := .halted f }

/-- `raise f` from an instruction's execution (00_scope.md R7, 60_exceptions.md R112): "no write of the cycle takes
effect, the advance included", so `pc` is the instruction's own address again (40_cycle.md R57). -/
def raise (s : State) (f : Fault) : Result := .next ((s.setPc s.instrAddr).halt f)

/-- A taken skip: `pc <- pc + 2`, "one extra instruction width" (41_flow.md R66). -/
def State.skipIf (s : State) (taken : Bool) : State :=
  if taken then s.setPc (s.pc + BitVec.ofNat Config.pcWidth Config.instrWidth) else s

/-- `stack[sp] <- v; sp <- sp + 1`, allowed only when `sp < 16` (10_state.md R14). -/
def State.push (s : State) (w : PcVal) (h : s.sp.val < Config.stackDepth) : State :=
  { s with stack := s.stack.set s.sp.val w h, sp := ⟨s.sp.val + 1, Nat.succ_lt_succ h⟩ }

/-- `sp <- sp - 1; v := stack[sp]`, allowed only when `sp > 0` (10_state.md R14): the entry and the state after. -/
def State.pop (s : State) (h : 0 < s.sp.val) : PcVal × State :=
  (s.stack[s.sp.val - 1]'(by have := s.sp.isLt; omega),
    { s with sp := ⟨s.sp.val - 1, by have := s.sp.isLt; omega⟩ })

/-- `px[c][r]` (R6, 10_state.md R18). -/
def Display.get (d : Display) (c : Fin Config.displayW) (r : Fin Config.displayH) : Bool := d[c][r]

/-- `px[c][r] <- b` (R6, 10_state.md R18). -/
def Display.set (d : Display) (c : Fin Config.displayW) (r : Fin Config.displayH) (b : Bool) : Display :=
  Vector.set d c (Vector.set d[c] r b)

/-- The blank display: every pixel unfilled (44_display.md R90). -/
def Display.blank : Display := Vector.replicate Config.displayW (Vector.replicate Config.displayH false)

/-- `key[k]` (R6, 10_state.md R19). -/
def State.getKey (s : State) (k : Key) : Bool := s.key[k.toNat]'k.isLt

/-- `key[k] <- b` (R6, 10_state.md R19). -/
def State.setKeyBit (s : State) (k : Key) (b : Bool) : State := { s with key := s.key.set k.toNat b k.isLt }

/-- The fault's number (60_exceptions.md R108). No program can read it. -/
def Fault.code : Fault → Nat
  | .programTooLarge _ => 0
  | .unsupportedOpcode _ _ => 1
  | .programCounterOutOfBounds _ => 2
  | .callStackOverflow _ => 3
  | .callStackUnderflow _ => 4
  | .dataAddressOutOfBounds _ _ => 5
  | .keyIndexOutOfRange _ _ => 6

/-- `run = HALTED(..)`. -/
def Run.isHalted : Run → Bool
  | .halted _ => true
  | .running => false
  | .waitKey _ => false

end Sys2Proof.Machine
end

