-- ==== Sys2Proof/Machine/Flags.lean ====
section
/-! DEFINITION. Every flag computation the spec gives VF (10_state.md R11), and the order result first, flag last
(42_alu.md R71 (c), (d); log entry 15). -/

namespace Sys2Proof.Machine

/-- A flag as VF holds it: exactly 0 or 1 (10_state.md R11). -/
def flagByte (b : Bool) : RegVal := if b then 1 else 0

/-- `AddReg`'s carry: the unsigned sum exceeds 255 (42_alu.md R78). -/
def carryOf (p q : RegVal) : Bool := decide (255 < p.toNat + q.toNat)

/-- No borrow in `p - q`: `p ≥ q`, equality counting as none (42_alu.md R71 (b)). -/
def noBorrowOf (p q : RegVal) : Bool := decide (q.toNat ≤ p.toNat)

/-- The bit a right shift by one puts out (42_alu.md R80). -/
def lowBitOf (p : RegVal) : Bool := p.getLsbD 0

/-- The bit a left shift by one puts out (42_alu.md R82). -/
def highBitOf (p : RegVal) : Bool := p.getLsbD (Config.regWidth - 1)

/-- `VF <- flag` (10_state.md R11). -/
def State.setFlag (s : State) (flag : Bool) : State := s.setV flagReg (flagByte flag)

/-- Result to `V[x]`, then the flag to `V[15]`: with `x = 15` the flag is what stays (42_alu.md R71 (d)). -/
def State.setResultFlag (s : State) (x : Reg) (result : RegVal) (flag : Bool) : State :=
  (s.setV x result).setFlag flag

end Sys2Proof.Machine
end

