-- ==== Sys2Proof/Machine/Alu.lean ====
section
/-! DEFINITION. The ALU and the register file (42_alu.md R71 to R83). Byte arithmetic wraps modulo 256 (R71 (a)); all
operands are read from the state before the instruction (R71 (c)). -/

namespace Sys2Proof.Machine

/-- `LoadImm(x, kk)` (R72). -/
def execLoadImm (x : Reg) (kk : Byte) (s : State) : Result := .next (s.setV x kk)

/-- `AddImm(x, kk)` (R73): no flag, also on overflow. -/
def execAddImm (x : Reg) (kk : Byte) (s : State) : Result := .next (s.setV x (s.getV x + kk))

/-- `LoadReg(x, y)` (R74). -/
def execLoadReg (x y : Reg) (s : State) : Result := .next (s.setV x (s.getV y))

/-- `Or(x, y)` (R75): VF is not written (log entry 16). -/
def execOr (x y : Reg) (s : State) : Result := .next (s.setV x (s.getV x ||| s.getV y))

/-- `And(x, y)` (R76): VF is not written (log entry 16). -/
def execAnd (x y : Reg) (s : State) : Result := .next (s.setV x (s.getV x &&& s.getV y))

/-- `Xor(x, y)` (R77): VF is not written (log entry 16). -/
def execXor (x y : Reg) (s : State) : Result := .next (s.setV x (s.getV x ^^^ s.getV y))

/-- `AddReg(x, y)` (R78): VF is the carry. -/
def execAddReg (x y : Reg) (s : State) : Result :=
  .next (s.setResultFlag x (s.getV x + s.getV y) (carryOf (s.getV x) (s.getV y)))

/-- `SubReg(x, y)` (R79): VF is 1 when there is no borrow. -/
def execSubReg (x y : Reg) (s : State) : Result :=
  .next (s.setResultFlag x (s.getV x - s.getV y) (noBorrowOf (s.getV x) (s.getV y)))

/-- `ShiftRight(x)` (R80): VF is the bit shifted out. -/
def execShiftRight (x : Reg) (s : State) : Result :=
  .next (s.setResultFlag x (s.getV x >>> 1) (lowBitOf (s.getV x)))

/-- `SubnReg(x, y)` (R81): `V[y] - V[x]` into `V[x]`; VF is 1 when there is no borrow. -/
def execSubnReg (x y : Reg) (s : State) : Result :=
  .next (s.setResultFlag x (s.getV y - s.getV x) (noBorrowOf (s.getV y) (s.getV x)))

/-- `ShiftLeft(x)` (R82): VF is the bit shifted out. -/
def execShiftLeft (x : Reg) (s : State) : Result :=
  .next (s.setResultFlag x (s.getV x <<< 1) (highBitOf (s.getV x)))

/-- `Random(x, kk)` (R83): `draw() & kk`; the byte drawn is a free value and the counter moves on (log entry 2). -/
def execRandom (x : Reg) (kk : Byte) (s : State) : Result :=
  .next ({ s with draws := s.draws + 1 }.setV x (Config.randomByte s.draws &&& kk))

end Sys2Proof.Machine
end

