-- ==== Sys2Proof/Machine/Operands.lean ====
section
/-! DEFINITION. The operand forms (30_encoding.md R44; 43_index_memory.md head note): zero-extended addresses, the one
addressing mode `I + k` with its bounds (20_memory.md R34), and a register's value as a key index. -/

namespace Sys2Proof.Machine

/-- `zext_16(nnn)`: a 12-bit address operand as it is written to `pc` or `I` (30_encoding.md R44). -/
def addrOperand (nnn : Addr) : Word := nnn.setWidth 16

/-- `zext_16(b)`: a register's byte as it enters 16-bit arithmetic. -/
def byteOperand (b : RegVal) : Word := b.setWidth 16

/-- The effective address `I + k`, "computed on unbounded naturals" (20_memory.md R34). -/
def State.effAddr (s : State) (k : Nat) : Nat := s.i.toNat + k

/-- Whether `count` accesses at `I .. I + count - 1` all lie in memory; no access, no bound (20_memory.md R34). -/
def State.dataFits (s : State) (count : Nat) : Bool := count == 0 || decide (s.effAddr (count - 1) < Config.memSize)

/-- The first offending address, `max(I, 4096)` (60_exceptions.md R106). -/
def State.firstBadAddr (s : State) : IndexVal :=
  if s.i.toNat < Config.memSize then BitVec.ofNat Config.iWidth Config.memSize else s.i

/-- The bounds check that stands before every write of a data instruction (20_memory.md R34): the fault, or the rest. -/
def withData (s : State) (count : Nat) (rest : Result) : Result :=
  if s.dataFits count then rest else raise s (.dataAddressOutOfBounds s.firstBadAddr s.instrAddr)

/-- The key that the value of `V[x]` names, where it names one of the 16 (45_keypad_timers.md R94). -/
def keyOperand (b : RegVal) : Option Key := if b.toNat < Config.numKeys then some (b.setWidth 4) else none

/-- The range check of the key skips (45_keypad_timers.md R94, R95): the fault, or the rest with the key. -/
def withKey (s : State) (x : Reg) (rest : Key → Result) : Result :=
  match keyOperand (s.getV x) with
  | some k => rest k
  | none => raise s (.keyIndexOutOfRange (s.getV x) s.instrAddr)

/-- The registers `V[0] .. V[x]`, in order (43_index_memory.md R88). -/
def State.regsUpTo (s : State) (x : Reg) : List Byte := s.v.toList.take (x.toNat + 1)

/-- `V[k] <- mem[I + k]` for `k = 0 .. x`, registers above `x` unchanged (43_index_memory.md R89). -/
def State.loadedRegs (s : State) (x : Reg) : Vector RegVal Config.numRegs :=
  Vector.ofFn (fun k => if k.val ≤ x.toNat then s.mem.read (s.effAddr k.val) else s.v[k])

/-- The three decimal digits, hundreds first, each as its binary value (43_index_memory.md R87). -/
def bcdDigits (b : RegVal) : List Byte :=
  [BitVec.ofNat 8 (b.toNat / 100), BitVec.ofNat 8 (b.toNat / 10 % 10), BitVec.ofNat 8 (b.toNat % 10)]

end Sys2Proof.Machine
end

