-- ==== Sys2Proof/Machine/ControlFlow.lean ====
section
/-! DEFINITION. Control flow (41_flow.md R62 to R70). Throughout, `pc` is already the instruction's address plus 2. -/

namespace Sys2Proof.Machine

/-- `Sys(nnn)` (R62): "a documented no-op (not an error)". -/
def execSys (_nnn : Addr) (s : State) : Result := .next s

/-- `Return` (R63): pops into `pc`; `CallStackUnderflow` when the stack is empty. -/
def execRet (s : State) : Result :=
  if h : 0 < s.sp.val then .next ((s.pop h).2.setPc (s.pop h).1) else raise s (.callStackUnderflow s.instrAddr)

/-- `Jump(nnn)` (R64). -/
def execJump (nnn : Addr) (s : State) : Result := .next (s.setPc (addrOperand nnn))

/-- `Call(nnn)` (R65): pushes the advanced `pc`; `CallStackOverflow` when the stack is full. -/
def execCall (nnn : Addr) (s : State) : Result :=
  if h : s.sp.val < Config.stackDepth then .next ((s.push s.pc h).setPc (addrOperand nnn))
  else raise s (.callStackOverflow s.instrAddr)

/-- `SkipEq(x, kk)` (R66). -/
def execSkipEq (x : Reg) (kk : Byte) (s : State) : Result := .next (s.skipIf (s.getV x == kk))

/-- `SkipNeq(x, kk)` (R67). -/
def execSkipNeq (x : Reg) (kk : Byte) (s : State) : Result := .next (s.skipIf (s.getV x != kk))

/-- `SkipEqReg(x, y)` (R68). -/
def execSkipEqReg (x y : Reg) (s : State) : Result := .next (s.skipIf (s.getV x == s.getV y))

/-- `SkipNeqReg(x, y)` (R69). -/
def execSkipNeqReg (x y : Reg) (s : State) : Result := .next (s.skipIf (s.getV x != s.getV y))

/-- `JumpOffset(nnn)` (R70): `zext_16(nnn) + zext_16(V[0])`, not reduced modulo 4096. -/
def execJumpOffset (nnn : Addr) (s : State) : Result :=
  .next (s.setPc (addrOperand nnn + byteOperand (s.getV 0)))

end Sys2Proof.Machine
end

