-- ==== Sys2Proof/Machine/Display.lean ====
section
/-! DEFINITION. The display (44_display.md): `Clear`, `Draw`, the blit algorithm R92 and its collision flag R93. -/

namespace Sys2Proof.Machine

/-- The sprite bit of column `ix` of a row, most significant bit first (R92): bit `7 - ix`. -/
def spriteBit (row : Byte) (ix : Nat) : Bool := row.getLsbD (Config.spriteW - 1 - ix)

/-- The column `c` modulo the width (R92). -/
def wrapCol (c : Nat) : Fin Config.displayW := Fin.ofNat Config.displayW c

/-- The row `r` modulo the height (R92). -/
def wrapRow (r : Nat) : Fin Config.displayH := Fin.ofNat Config.displayH r

/-- One position of R92's inner loop: the pixel is XORed with the sprite bit; a filled pixel that becomes unfilled is a
collision, and the collision is sticky (R93). -/
def blitPixel (c : Fin Config.displayW) (r : Fin Config.displayH) (bit : Bool) (acc : Display × Bool) : Display × Bool :=
  let old := acc.1.get c r
  let new := old ^^ bit
  (acc.1.set c r new, acc.2 || (old && !new))

/-- R92's inner loop over `ix = 0 .. 7` for one sprite row at screen row `r`. -/
def blitRow (sx : Nat) (r : Fin Config.displayH) (row : Byte) (acc : Display × Bool) : Display × Bool :=
  (List.range Config.spriteW).foldl (fun acc ix => blitPixel (wrapCol (sx + ix)) r (spriteBit row ix) acc) acc

/-- R92's outer loop over the sprite rows from screen row `y` on. -/
def blitRows (sx : Nat) : Nat → List Byte → Display × Bool → Display × Bool
  | _, [], acc => acc
  | y, row :: rows, acc => blitRows sx (y + 1) rows (blitRow sx (wrapRow y) row acc)

/-- `Blit(sx, sy, n, row)` (R92): the display after and whether any pixel collided. -/
def blit (d : Display) (sx sy : Nat) (rows : List Byte) : Display × Bool := blitRows sx sy rows (d, false)

/-- `V[x] mod 64` (R91). -/
def State.drawCol (s : State) (x : Reg) : Nat := (s.getV x).toNat % Config.displayW

/-- `V[y] mod 32` (R91). -/
def State.drawRow (s : State) (y : Reg) : Nat := (s.getV y).toNat % Config.displayH

/-- The sprite's rows, `n` bytes from `I` (R91). -/
def State.spriteRows (s : State) (n : Nibble) : List Byte := s.mem.readBytes (s.effAddr 0) n.toNat

/-- `Clear` (R90). -/
def execClear (s : State) : Result := .next { s with px := Display.blank }

/-- `Draw(x, y, n)` (R91): the position is read before VF is written; VF is the collision. -/
def execDraw (x y : Reg) (n : Nibble) (s : State) : Result :=
  withData s n.toNat
    (let drawn := blit s.px (s.drawCol x) (s.drawRow y) (s.spriteRows n)
     .next ({ s with px := drawn.1 }.setFlag drawn.2))

end Sys2Proof.Machine
end

