-- ==== Sys2Proof/Machine/IndexMemory.lean ====
section
/-! DEFINITION. The index register and the memory instructions (43_index_memory.md R84 to R89). `I` is never changed by
a memory access (log entry 16). -/

namespace Sys2Proof.Machine

/-- `LoadIndex(nnn)` (R84). -/
def execLoadIndex (nnn : Addr) (s : State) : Result := .next (s.setI (addrOperand nnn))

/-- `AddIndex(x)` (R85): modulo 65536, no flag. -/
def execAddIndex (x : Reg) (s : State) : Result := .next (s.setI (s.i + byteOperand (s.getV x)))

/-- `LoadFontAddr(x)` (R86): the whole byte times 5, no mask. -/
def execLoadFontAddr (x : Reg) (s : State) : Result :=
  .next (s.setI (byteOperand (s.getV x) * BitVec.ofNat Config.iWidth Config.glyphSize))

/-- `StoreBCD(x)` (R87). -/
def execStoreBcd (x : Reg) (s : State) : Result :=
  withData s 3 (.next { s with mem := s.mem.writeBytes (s.effAddr 0) (bcdDigits (s.getV x)) })

/-- `StoreRegs(x)` (R88): `V[0] .. V[x]`, inclusive. -/
def execStoreRegs (x : Reg) (s : State) : Result :=
  withData s (x.toNat + 1) (.next { s with mem := s.mem.writeBytes (s.effAddr 0) (s.regsUpTo x) })

/-- `LoadRegs(x)` (R89): `V[0] .. V[x]`, inclusive. -/
def execLoadRegs (x : Reg) (s : State) : Result :=
  withData s (x.toNat + 1) (.next { s with v := s.loadedRegs x })

end Sys2Proof.Machine
end

