-- ==== Sys2Proof/Machine/KeypadTimers.lean ====
section
/-! DEFINITION. The keypad and timer instructions (45_keypad_timers.md R94 to R99). -/

namespace Sys2Proof.Machine

/-- `SkipKeyPressed(x)` (R94): skips when the key is down. -/
def execSkipKeyPressed (x : Reg) (s : State) : Result :=
  withKey s x (fun k => .next (s.skipIf (s.getKey k)))

/-- `SkipKeyNotPressed(x)` (R95): skips when the key is up. -/
def execSkipKeyNotPressed (x : Reg) (s : State) : Result :=
  withKey s x (fun k => .next (s.skipIf (!s.getKey k)))

/-- `WaitKey(x)`, first half (R96): the slot is cleared and the wait entered; the `wake` event is the second half. -/
def execWaitKey (x : Reg) (s : State) : Result := .next { s with lastKey := none, run := .waitKey x }

/-- `StoreDelayTimer(x)` (R97). -/
def execStoreDelayTimer (x : Reg) (s : State) : Result := .next (s.setV x s.dt)

/-- `SetDelayTimer(x)` (R98). -/
def execSetDelayTimer (x : Reg) (s : State) : Result := .next { s with dt := s.getV x }

/-- `SetSoundTimer(x)` (R99). -/
def execSetSoundTimer (x : Reg) (s : State) : Result := .next { s with st := s.getV x }

end Sys2Proof.Machine
end

