-- ==== Sys2Proof/Machine/Cycle.lean ====
section
/-! DEFINITION. The instruction cycle (40_cycle.md R53 to R57), every event of R52 with when it is enabled, and the
machine's move under its schedule (R61). Step.lean only calls what stands here. -/

namespace Sys2Proof.Machine

/-- Both bytes of a fetch at `pc` lie in memory: `pc + 1 ≤ 4095` (20_memory.md R33). -/
def fetchable (pc : PcVal) : Bool := decide (pc.toNat + 1 < Config.memSize)

/-- FETCH (R54): `mem[pc] × 256 + mem[pc+1]`, at any `pc`, even or odd. -/
def State.fetchWord (s : State) : Word := wordOfBytes (s.mem.read s.pc.toNat) (s.mem.read (s.pc.toNat + 1))

/-- The first `step` ends the time in which `load_rom` is accepted (70_reset_and_hazards.md R124). -/
def State.markStarted (s : State) : State := { s with loadedOrStarted := true }

/-- ADVANCE (R55): `pc <- pc + 2`, for every instruction without exception. -/
def State.advance (s : State) : State := s.setPc (s.pc + BitVec.ofNat Config.pcWidth Config.instrWidth)

/-- The `step` event (R53): FETCH, ADVANCE, DECODE, EXECUTE as one atomic event, with the checks in that order
(60_exceptions.md R111). The fetch and decode faults leave everything else as it was before the event (R112). -/
def cycle (s : State) : Result :=
  if fetchable s.pc then
    match decodeWord s.fetchWord with
    | some i => exec i s.markStarted.advance
    | none => .next (s.markStarted.halt (.unsupportedOpcode s.fetchWord s.pc))
  else .next (s.markStarted.halt (.programCounterOutOfBounds s.pc))

/-- The `wake` event (R59): `V[x] <- k`, `run <- RUNNING`; the slot keeps its value. Outside its enabling condition it
has no step. -/
def wakeUp (s : State) : State :=
  match s.run, s.lastKey with
  | .waitKey x, some k => { s.setV x (k.setWidth Config.regWidth) with run := .running }
  | _, _ => s

/-- A timer counts down by 1, "saturating at zero (never wrap below)" (60_exceptions.md R115). -/
def countDown (t : TimerVal) : TimerVal := if t = 0 then 0 else t - 1

/-- The `tick` event (60_exceptions.md R115). -/
def tickTimers (s : State) : State := { s with dt := countDown s.dt, st := countDown s.st }

/-- The `set_key(k, pressed)` event (60_exceptions.md R116): only a key found up and now pressed is a transition that
the slot records. -/
def keyEvent (s : State) (k : Key) (pressed : Bool) : State :=
  if pressed then
    if s.getKey k then s else { s.setKeyBit k true with lastKey := some k }
  else s.setKeyBit k false

/-- The `load_rom(bytes)` event (70_reset_and_hazards.md R124): the bytes from 0x200 on, or `ProgramTooLarge` and no
byte written. -/
def loadProgram (s : State) (bytes : List Byte) : State :=
  if Config.programStart + bytes.length > Config.memSize then s.markStarted.halt (.programTooLarge bytes.length)
  else { s.markStarted with mem := s.mem.writeBytes Config.programStart bytes }

/-- The `reset` event (70_reset_and_hazards.md R123): the state of `State.reset`. What belongs to the environment, its
remaining events and the count of its random bytes, goes on (log entry 12). -/
def resetMachine (s : State) : State := { State.reset with schedule := s.schedule, draws := s.draws }

/-- The "enabled when" column of R52. In `HALTED` nothing but `reset` is enabled (R60). -/
def enabled (e : Event) (s : State) : Bool :=
  match e with
  | .reset => true
  | .loadRom _ => !s.loadedOrStarted && !s.run.isHalted
  | .step => s.run == .running
  | .wake =>
    match s.run with
    | .waitKey _ => s.lastKey.isSome
    | .running => false
    | .halted _ => false
  | .tick => !s.run.isHalted
  | .setKey _ _ => !s.run.isHalted

/-- The "effect" column of R52. -/
def effect (e : Event) (s : State) : Result :=
  match e with
  | .reset => .next (resetMachine s)
  | .loadRom bytes => .next (loadProgram s bytes)
  | .step => cycle s
  | .wake => .next (wakeUp s)
  | .tick => .next (tickTimers s)
  | .setKey k pressed => .next (keyEvent s k pressed)

/-- An event as the environment presents it: its effect where it is enabled; else "the whole state is unchanged"
(00_scope.md R7, 60_exceptions.md R113; log entry 9). -/
def present (e : Event) (s : State) : Result := if enabled e s then effect e s else .next s

/-- What happens when the schedule names nothing: the step driver steps a machine that is not waiting, and the
interpreter wakes one that is (log entry 8). -/
def ownEvent (s : State) : Event :=
  match s.run with
  | .waitKey _ => .wake
  | .running => .step
  | .halted _ => .step

/-- One move of the machine with its environment: the schedule's first event, or the default one (R61). -/
def move (s : State) : Result :=
  match s.schedule with
  | e :: rest => present e { s with schedule := rest }
  | [] => present (ownEvent s) s

/-- Where the next fetch is made so that a word placed there is run: `pc`, or the entry point if no fetch at `pc` is
possible. -/
def fetchSite (s : State) : PcVal := if fetchable s.pc then s.pc else BitVec.ofNat Config.pcWidth Config.programStart

/-- The state with a word at the next fetch, running, with no event before it. -/
def placeWord (s : State) (w : Word) : State :=
  { s with
    mem := s.mem.writeBytes (fetchSite s).toNat [w.extractLsb' 8 8, w.extractLsb' 0 8]
    pc := fetchSite s
    run := .running
    schedule := [] }

end Sys2Proof.Machine
end

