-- ==== Sys2Proof/Machine/Step.lean ====
section
/-! DEFINITION. One step of the machine, and an instruction placed where the next step fetches. -/

namespace Sys2Proof.Machine

/-- One step: the next event of the schedule, or with none left a `step` event (or the `wake` it waits for). -/
def step (s : State) : Host.Outcome State Fault Refusal := move s

/-- `s` with the instruction of the table word `w` where the next step fetches (log entry 11). -/
def State.withFetchWord (s : State) (nbits w : Nat) : State := placeWord s (BitVec.ofNat 16 (w % 2 ^ nbits))

end Sys2Proof.Machine
end

