-- ==== Sys2Proof/Safety.lean ====
section
/-! DEFINITION. The terms claims use: a run that has not halted, what "nothing else changes" means, and the invariants
of the machine. -/

namespace Sys2Proof.Machine

/-- `run ≠ HALTED`: what "a claim that a program runs correctly takes as part of what it proves"
(60_exceptions.md R113). -/
def State.live (s : State) : Prop := s.run.isHalted = false

/-- Every byte of memory reads as before. -/
def keepsMemory (s t : State) : Prop := ∀ a, t.mem.read a = s.mem.read a

/-- From `s` to `t` nothing but general registers changes: not `I`, `pc`, the stack, the timers, memory, the display,
the keypad, the run state, nor the model's own fields. -/
def onlyRegs (s t : State) : Prop := t = { s with v := t.v } ∧ keepsMemory s t

/-- From `s` to `t` nothing but `pc` changes. -/
def onlyPc (s t : State) : Prop := t = { s with pc := t.pc } ∧ keepsMemory s t

/-- From `s` to `t` nothing but `I` changes. -/
def onlyIndex (s t : State) : Prop := t = { s with i := t.i } ∧ keepsMemory s t

/-- From `s` to `t` nothing but the call stack and `pc` changes. -/
def onlyStackPc (s t : State) : Prop :=
  t = { s with sp := t.sp, stack := t.stack, pc := t.pc } ∧ keepsMemory s t

/-- From `s` to `t` nothing but the `n` bytes of memory from `a` on changes. -/
def onlyMemory (s t : State) (a n : Nat) : Prop :=
  t = { s with mem := t.mem } ∧ ∀ b, b < a ∨ a + n ≤ b → t.mem.read b = s.mem.read b

/-- From `s` to `t` nothing but the display changes. -/
def onlyDisplay (s t : State) : Prop := t = { s with px := t.px } ∧ keepsMemory s t

/-- A fault taken by an instruction whose execution began in `s` (60_exceptions.md R112): the state before the event,
so `pc` back at the instruction, and `run = HALTED(f, info)`. -/
def faulted (s : State) (f : Fault) : State := { s with pc := s.pc - 2#16, run := .halted f }

/-- INVARIANT: memory is in its canonical form and lists no address outside `0..4095` (10_state.md R17). -/
def State.memOk (s : State) : Prop := s.mem.wf

/-- INVARIANT (10_state.md R13): "the largest value any rule can produce is 0x10FE", and every live stack entry is
the successor of a fetchable address, "at most 4096" (41_flow.md R63). -/
def State.pcOk (s : State) : Prop :=
  s.pc.toNat ≤ 0x10FE ∧ ∀ k : Fin Config.stackDepth, k.val < s.sp.val → (s.stack[k]).toNat ≤ 4096

/-- INVARIANT (10_state.md R25 (e)): in `WAIT_KEY(x)` `pc` is the address after a `WaitKey(x)` instruction, and no
`load_rom` can be accepted any more. -/
def State.waitOk (s : State) : Prop :=
  ∀ x, s.run = .waitKey x →
    s.loadedOrStarted = true ∧ 2 ≤ s.pc.toNat ∧ s.pc.toNat ≤ Config.memSize ∧
      decodeWord (wordOfBytes (s.mem.read (s.pc.toNat - 2)) (s.mem.read (s.pc.toNat - 1))) = some (.waitKey x)

/-- The three invariants together. -/
def State.Inv (s : State) : Prop := s.memOk ∧ s.pcOk ∧ s.waitOk

/-- A set sprite bit of `Draw(x, y, n)` falls on the pixel `(c, r)`: one of the `8 × n` positions of
44_display.md R92, "for each of `n` sprite rows ... for each of 8 bit columns ..., most-significant bit first", wraps to
it with its bit 1. The rows are the `n` bytes from `I`; the start is `(V[x] mod 64, V[y] mod 32)`. -/
def State.spriteCovers (s : State) (x y : Reg) (n : Nibble) (c : Fin Config.displayW) (r : Fin Config.displayH) :
    Prop :=
  ∃ iy ix : Nat, iy < n.toNat ∧ ix < 8 ∧ ((s.getV x).toNat % 64 + ix) % 64 = c.val ∧
    ((s.getV y).toNat % 32 + iy) % 32 = r.val ∧ (s.mem.read (s.i.toNat + iy)).getLsbD (7 - ix) = true

/-- The keypad after a run of `set_key` events (60_exceptions.md R116). -/
def keysAfter (s : State) (presses : List (Key × Bool)) : State :=
  presses.foldl (fun s e => keyEvent s e.1 e.2) s

/-- A `set_key` event is a transition from released to pressed (60_exceptions.md R116). -/
def qualifies (s : State) (e : Key × Bool) : Prop := e.2 = true ∧ s.getKey e.1 = false

/-- The registers an instruction may write: its destination, VF where it is the flag, the range of `LoadRegs`
(10_state.md R10, R11). -/
def destination (i : Instr) (r : Reg) : Prop :=
  match i with
  | .loadImm x _ | .addImm x _ | .loadReg x _ | .orReg x _ | .andReg x _ | .xorReg x _ | .random x _
  | .storeDelayTimer x => r = x
  | .addReg x _ | .subReg x _ | .shiftRight x | .subnReg x _ | .shiftLeft x => r = x ∨ r = 15#4
  | .draw _ _ _ => r = 15#4
  | .loadRegs x => r.toNat ≤ x.toNat
  | .clear | .ret | .sys _ | .jump _ | .call _ | .skipEq _ _ | .skipNeq _ _ | .skipEqReg _ _ | .skipNeqReg _ _
  | .loadIndex _ | .jumpOffset _ | .skipKeyPressed _ | .skipKeyNotPressed _ | .waitKey _ | .setDelayTimer _
  | .setSoundTimer _ | .addIndex _ | .loadFontAddr _ | .storeBcd _ | .storeRegs _ => False

/-- The instructions that write `pc` beyond the cycle's advance: "`Return`, `Jump`, `Call`, `JumpOffset` and ... the six
skip instructions" (10_state.md R13). -/
def writesPc (i : Instr) : Prop :=
  match i with
  | .ret | .jump _ | .call _ | .skipEq _ _ | .skipNeq _ _ | .skipEqReg _ _ | .skipNeqReg _ _ | .jumpOffset _
  | .skipKeyPressed _ | .skipKeyNotPressed _ => True
  | .clear | .sys _ | .loadImm _ _ | .addImm _ _ | .loadReg _ _ | .orReg _ _ | .andReg _ _ | .xorReg _ _
  | .addReg _ _ | .subReg _ _ | .shiftRight _ | .subnReg _ _ | .shiftLeft _ | .loadIndex _ | .random _ _ | .draw _ _ _
  | .storeDelayTimer _ | .waitKey _ | .setDelayTimer _ | .setSoundTimer _ | .addIndex _ | .loadFontAddr _ | .storeBcd _
  | .storeRegs _ | .loadRegs _ => False

end Sys2Proof.Machine

namespace Sys2Proof

/-- A row of R46 as its mask and match columns give it: mask, match, the instruction assembled from the word. -/
structure MaskRow where
  mask : Word
  value : Word
  make : Word → Instr

/-- 30_encoding.md R46 by its mask and match columns, rows 1 to 35 in decode order: an independent copy of the opcode
map, against which the decoder is held. -/
def maskTable : List MaskRow :=
  [ ⟨0xFFFF, 0x00E0, fun _ => .clear⟩,
    ⟨0xFFFF, 0x00EE, fun _ => .ret⟩,
    ⟨0xF000, 0x0000, fun w => .sys (w.extractLsb' 0 12)⟩,
    ⟨0xF000, 0x1000, fun w => .jump (w.extractLsb' 0 12)⟩,
    ⟨0xF000, 0x2000, fun w => .call (w.extractLsb' 0 12)⟩,
    ⟨0xF000, 0x3000, fun w => .skipEq (w.extractLsb' 8 4) (w.extractLsb' 0 8)⟩,
    ⟨0xF000, 0x4000, fun w => .skipNeq (w.extractLsb' 8 4) (w.extractLsb' 0 8)⟩,
    ⟨0xF00F, 0x5000, fun w => .skipEqReg (w.extractLsb' 8 4) (w.extractLsb' 4 4)⟩,
    ⟨0xF000, 0x6000, fun w => .loadImm (w.extractLsb' 8 4) (w.extractLsb' 0 8)⟩,
    ⟨0xF000, 0x7000, fun w => .addImm (w.extractLsb' 8 4) (w.extractLsb' 0 8)⟩,
    ⟨0xF00F, 0x8000, fun w => .loadReg (w.extractLsb' 8 4) (w.extractLsb' 4 4)⟩,
    ⟨0xF00F, 0x8001, fun w => .orReg (w.extractLsb' 8 4) (w.extractLsb' 4 4)⟩,
    ⟨0xF00F, 0x8002, fun w => .andReg (w.extractLsb' 8 4) (w.extractLsb' 4 4)⟩,
    ⟨0xF00F, 0x8003, fun w => .xorReg (w.extractLsb' 8 4) (w.extractLsb' 4 4)⟩,
    ⟨0xF00F, 0x8004, fun w => .addReg (w.extractLsb' 8 4) (w.extractLsb' 4 4)⟩,
    ⟨0xF00F, 0x8005, fun w => .subReg (w.extractLsb' 8 4) (w.extractLsb' 4 4)⟩,
    ⟨0xF00F, 0x8006, fun w => .shiftRight (w.extractLsb' 8 4)⟩,
    ⟨0xF00F, 0x8007, fun w => .subnReg (w.extractLsb' 8 4) (w.extractLsb' 4 4)⟩,
    ⟨0xF00F, 0x800E, fun w => .shiftLeft (w.extractLsb' 8 4)⟩,
    ⟨0xF00F, 0x9000, fun w => .skipNeqReg (w.extractLsb' 8 4) (w.extractLsb' 4 4)⟩,
    ⟨0xF000, 0xA000, fun w => .loadIndex (w.extractLsb' 0 12)⟩,
    ⟨0xF000, 0xB000, fun w => .jumpOffset (w.extractLsb' 0 12)⟩,
    ⟨0xF000, 0xC000, fun w => .random (w.extractLsb' 8 4) (w.extractLsb' 0 8)⟩,
    ⟨0xF000, 0xD000, fun w => .draw (w.extractLsb' 8 4) (w.extractLsb' 4 4) (w.extractLsb' 0 4)⟩,
    ⟨0xF0FF, 0xE09E, fun w => .skipKeyPressed (w.extractLsb' 8 4)⟩,
    ⟨0xF0FF, 0xE0A1, fun w => .skipKeyNotPressed (w.extractLsb' 8 4)⟩,
    ⟨0xF0FF, 0xF007, fun w => .storeDelayTimer (w.extractLsb' 8 4)⟩,
    ⟨0xF0FF, 0xF00A, fun w => .waitKey (w.extractLsb' 8 4)⟩,
    ⟨0xF0FF, 0xF015, fun w => .setDelayTimer (w.extractLsb' 8 4)⟩,
    ⟨0xF0FF, 0xF018, fun w => .setSoundTimer (w.extractLsb' 8 4)⟩,
    ⟨0xF0FF, 0xF01E, fun w => .addIndex (w.extractLsb' 8 4)⟩,
    ⟨0xF0FF, 0xF029, fun w => .loadFontAddr (w.extractLsb' 8 4)⟩,
    ⟨0xF0FF, 0xF033, fun w => .storeBcd (w.extractLsb' 8 4)⟩,
    ⟨0xF0FF, 0xF055, fun w => .storeRegs (w.extractLsb' 8 4)⟩,
    ⟨0xF0FF, 0xF065, fun w => .loadRegs (w.extractLsb' 8 4)⟩ ]

end Sys2Proof
end

