-- ==== Sys2Proof/Certificates/Slice0/Obligations.lean ====
section
/-! DEFINITION. The statements for the provers. In a statement about `exec`, `s` is the state the cycle hands to an
instruction: `pc` already advanced, so the instruction's own address is `s.pc - 2` (40_cycle.md R55, R57). -/

open Sys2Proof Sys2Proof.Machine

/-! ### Decoding and encoding -/

/-- 30_encoding.md R51: the encoder inverts the decoder on every instruction the decoder can produce, and the decoder's
answer encodes back to the word, but for the shifts' ignored `y` nibble, where `x` is still recovered. -/
def Obligations.EncodeAndDecodeAreInverse : Prop :=
  (∀ i : Instr, i.wellFormed = true → decodeWord (encode i) = some i) ∧
  (∀ (w : Word) (i : Instr), decodeWord w = some i →
    i.wellFormed = true ∧
    (encode i = w ∨
      ((i = .shiftRight (w.extractLsb' 8 4) ∨ i = .shiftLeft (w.extractLsb' 8 4)) ∧ encode i = w &&& 0xFF0F#16)))

/-- 30_encoding.md R45, R46: the decoder is "the first row whose pattern matches", by the mask and match columns, with
the fields of R43. -/
def Obligations.DecoderFollowsMaskAndMatch : Prop :=
  ∀ w : Word, decodeWord w = (maskTable.find? (fun r => w &&& r.mask == r.value)).map (fun r => r.make w)

/-- 30_encoding.md R47: the unsupported words are exactly the five families it lists. -/
def Obligations.UnsupportedWordsAreTheListedOnes : Prop :=
  ∀ n0 x y n : Nibble,
    decodeWord (n0 ++ x ++ y ++ n : BitVec 16) = none ↔
      ((n0 = 0x5#4 ∧ n ≠ 0#4) ∨
       (n0 = 0x8#4 ∧ n ∈ [0x8#4, 0x9#4, 0xA#4, 0xB#4, 0xC#4, 0xD#4, 0xF#4]) ∨
       (n0 = 0x9#4 ∧ n ≠ 0#4) ∨
       (n0 = 0xE#4 ∧ (y, n) ∉ [(0x9#4, 0xE#4), (0xA#4, 0x1#4)]) ∨
       (n0 = 0xF#4 ∧ (y, n) ∉ [(0x0#4, 0x7#4), (0x0#4, 0xA#4), (0x1#4, 0x5#4), (0x1#4, 0x8#4), (0x1#4, 0xE#4),
          (0x2#4, 0x9#4), (0x3#4, 0x3#4), (0x5#4, 0x5#4), (0x6#4, 0x5#4)]))

/-- Words of 95_test_vectors.md 2.1, one or more for each family, and two of their unsupported neighbours. -/
def Obligations.SampleWordsDecode : Prop :=
  decodeWord 0x00E0 = some .clear ∧ decodeWord 0x00E1 = some (.sys 0x0E1) ∧ decodeWord 0x2ABC = some (.call 0xABC) ∧
  decodeWord 0x3A7F = some (.skipEq 0xA 0x7F) ∧ decodeWord 0x8AB5 = some (.subReg 0xA 0xB) ∧
  decodeWord 0x8AF6 = some (.shiftRight 0xA) ∧ decodeWord 0xC30F = some (.random 3 0x0F) ∧
  decodeWord 0xD125 = some (.draw 1 2 5) ∧ decodeWord 0xE2A1 = some (.skipKeyNotPressed 2) ∧
  decodeWord 0xF40A = some (.waitKey 4) ∧ decodeWord 0xF433 = some (.storeBcd 4) ∧
  decodeWord 0x5121 = none ∧ decodeWord 0xF4FF = none

/-! ### Control flow -/

/-- 41_flow.md R62. -/
def Obligations.SysChangesNothing : Prop :=
  ∀ (s : State) (nnn : Addr), exec (.sys nnn) s = .next s

/-- 41_flow.md R63, 60_exceptions.md R105. -/
def Obligations.ReturnPopsOrUnderflows : Prop :=
  ∀ s : State,
    (∀ h : 0 < s.sp.val, ∃ t, exec .ret s = .next t ∧ t.sp.val = s.sp.val - 1 ∧
      t.pc = s.stack[s.sp.val - 1]'(by have := s.sp.isLt; omega) ∧ t.stack = s.stack ∧ onlyStackPc s t) ∧
    (s.sp.val = 0 → exec .ret s = .next (faulted s (.callStackUnderflow (s.pc - 2#16))))

/-- 41_flow.md R64. -/
def Obligations.JumpSetsPc : Prop :=
  ∀ (s : State) (nnn : Addr), ∃ t, exec (.jump nnn) s = .next t ∧ t.pc.toNat = nnn.toNat ∧ onlyPc s t

/-- 41_flow.md R65, 60_exceptions.md R104. -/
def Obligations.CallPushesOrOverflows : Prop :=
  ∀ (s : State) (nnn : Addr),
    (∀ h : s.sp.val < 16, ∃ t, exec (.call nnn) s = .next t ∧ t.sp.val = s.sp.val + 1 ∧ t.pc.toNat = nnn.toNat ∧
      t.stack[s.sp.val]'h = s.pc ∧ (∀ k : Fin 16, k.val ≠ s.sp.val → t.stack[k] = s.stack[k]) ∧ onlyStackPc s t) ∧
    (s.sp.val = 16 → exec (.call nnn) s = .next (faulted s (.callStackOverflow (s.pc - 2#16))))

/-- A call and the matching return: whatever happened to `pc` between, the return restores the advanced `pc` of the
call, the stack pointer, and every live entry (41_flow.md R63, R65). -/
def Obligations.ReturnUndoesCall : Prop :=
  ∀ (s : State) (nnn : Addr) (between : Word), s.sp.val < 16 →
    ∃ t u, exec (.call nnn) s = .next t ∧ exec .ret { t with pc := between } = .next u ∧ u.pc = s.pc ∧ u.sp = s.sp ∧
      (∀ k : Fin 16, k.val < s.sp.val → u.stack[k] = s.stack[k]) ∧ u = { s with stack := u.stack }

/-- 41_flow.md R66, R67. -/
def Obligations.ImmediateSkips : Prop :=
  ∀ (s : State) (x : Reg) (kk : Byte),
    (∃ t, exec (.skipEq x kk) s = .next t ∧ t.pc = (if s.getV x = kk then s.pc + 2#16 else s.pc) ∧ onlyPc s t) ∧
    (∃ t, exec (.skipNeq x kk) s = .next t ∧ t.pc = (if s.getV x ≠ kk then s.pc + 2#16 else s.pc) ∧ onlyPc s t)

/-- 41_flow.md R68, R69. -/
def Obligations.RegisterSkips : Prop :=
  ∀ (s : State) (x y : Reg),
    (∃ t, exec (.skipEqReg x y) s = .next t ∧ t.pc = (if s.getV x = s.getV y then s.pc + 2#16 else s.pc) ∧
      onlyPc s t) ∧
    (∃ t, exec (.skipNeqReg x y) s = .next t ∧ t.pc = (if s.getV x ≠ s.getV y then s.pc + 2#16 else s.pc) ∧
      onlyPc s t)

/-- 41_flow.md R70: the sum is exact on naturals, so nothing wraps. -/
def Obligations.JumpOffsetAddsRegisterZero : Prop :=
  ∀ (s : State) (nnn : Addr), ∃ t, exec (.jumpOffset nnn) s = .next t ∧
    t.pc.toNat = nnn.toNat + (s.getV 0#4).toNat ∧ onlyPc s t

/-! ### ALU -/

/-- 42_alu.md R72, R73, R74: no flag, also on overflow, unless `x = 15` names VF. -/
def Obligations.LoadsAndAddImmediate : Prop :=
  ∀ (s : State) (x y : Reg) (kk : Byte),
    (∃ t, exec (.loadImm x kk) s = .next t ∧ (∀ r, t.getV r = if r = x then kk else s.getV r) ∧ onlyRegs s t) ∧
    (∃ t, exec (.addImm x kk) s = .next t ∧
      (∀ r, t.getV r = if r = x then BitVec.ofNat 8 (((s.getV x).toNat + kk.toNat) % 256) else s.getV r) ∧
      onlyRegs s t) ∧
    (∃ t, exec (.loadReg x y) s = .next t ∧ (∀ r, t.getV r = if r = x then s.getV y else s.getV r) ∧ onlyRegs s t)

/-- 42_alu.md R75, R76, R77, bit by bit; VF is written only when `x = 15` names it. -/
def Obligations.LogicBitByBit : Prop :=
  ∀ (s : State) (x y : Reg),
    (∃ t, exec (.orReg x y) s = .next t ∧ onlyRegs s t ∧ (∀ r, r ≠ x → t.getV r = s.getV r) ∧
      ∀ b, (t.getV x).getLsbD b = ((s.getV x).getLsbD b || (s.getV y).getLsbD b)) ∧
    (∃ t, exec (.andReg x y) s = .next t ∧ onlyRegs s t ∧ (∀ r, r ≠ x → t.getV r = s.getV r) ∧
      ∀ b, (t.getV x).getLsbD b = ((s.getV x).getLsbD b && (s.getV y).getLsbD b)) ∧
    (∃ t, exec (.xorReg x y) s = .next t ∧ onlyRegs s t ∧ (∀ r, r ≠ x → t.getV r = s.getV r) ∧
      ∀ b, (t.getV x).getLsbD b = ((s.getV x).getLsbD b ^^ (s.getV y).getLsbD b))

/-- 42_alu.md R78; for `x = 15` the carry is what stays (R71 (d)). -/
def Obligations.AddRegCarry : Prop :=
  ∀ (s : State) (x y : Reg), ∃ t, exec (.addReg x y) s = .next t ∧
    (∀ r, t.getV r =
      if r = 15#4 then (if 255 < (s.getV x).toNat + (s.getV y).toNat then 1#8 else 0#8)
      else if r = x then BitVec.ofNat 8 (((s.getV x).toNat + (s.getV y).toNat) % 256)
      else s.getV r) ∧ onlyRegs s t

/-- 42_alu.md R79; for `x = 15` the flag is what stays (R71 (d)). -/
def Obligations.SubRegNotBorrow : Prop :=
  ∀ (s : State) (x y : Reg), ∃ t, exec (.subReg x y) s = .next t ∧
    (∀ r, t.getV r =
      if r = 15#4 then (if (s.getV y).toNat ≤ (s.getV x).toNat then 1#8 else 0#8)
      else if r = x then
        (if (s.getV y).toNat ≤ (s.getV x).toNat then BitVec.ofNat 8 ((s.getV x).toNat - (s.getV y).toNat)
         else BitVec.ofNat 8 ((s.getV x).toNat + 256 - (s.getV y).toNat))
      else s.getV r) ∧ onlyRegs s t

/-- 42_alu.md R81: the destination is still `V[x]`; for `x = 15` the flag is what stays (R71 (d)). -/
def Obligations.SubnRegNotBorrow : Prop :=
  ∀ (s : State) (x y : Reg), ∃ t, exec (.subnReg x y) s = .next t ∧
    (∀ r, t.getV r =
      if r = 15#4 then (if (s.getV x).toNat ≤ (s.getV y).toNat then 1#8 else 0#8)
      else if r = x then
        (if (s.getV x).toNat ≤ (s.getV y).toNat then BitVec.ofNat 8 ((s.getV y).toNat - (s.getV x).toNat)
         else BitVec.ofNat 8 ((s.getV y).toNat + 256 - (s.getV x).toNat))
      else s.getV r) ∧ onlyRegs s t

/-- 42_alu.md R80, R82: the bit shifted out, bit 0 (`v mod 2`) or bit 7 (`v div 128`), and the shifted value; for
`x = 15` the flag is what stays (R71 (d)). -/
def Obligations.ShiftsByOne : Prop :=
  ∀ (s : State) (x : Reg),
    (∃ t, exec (.shiftRight x) s = .next t ∧ onlyRegs s t ∧
      ∀ r, t.getV r =
        if r = 15#4 then BitVec.ofNat 8 ((s.getV x).toNat % 2)
        else if r = x then BitVec.ofNat 8 ((s.getV x).toNat / 2) else s.getV r) ∧
    (∃ t, exec (.shiftLeft x) s = .next t ∧ onlyRegs s t ∧
      ∀ r, t.getV r =
        if r = 15#4 then BitVec.ofNat 8 ((s.getV x).toNat / 128)
        else if r = x then BitVec.ofNat 8 ((s.getV x).toNat * 2 % 256) else s.getV r)

/-- 42_alu.md R83: some byte was drawn and masked. The byte is the free value `Config.randomByte s.draws` (log entry 2);
the statement holds whatever it is, and the counter of draws moves on. -/
def Obligations.RandomMasksADraw : Prop :=
  ∀ (s : State) (x : Reg) (kk : Byte), ∃ t, exec (.random x kk) s = .next t ∧
    (∀ r, t.getV r = if r = x then Config.randomByte s.draws &&& kk else s.getV r) ∧ t.getV x &&& ~~~kk = 0#8 ∧
    t = { s with v := t.v, draws := s.draws + 1 } ∧ keepsMemory s t

/-- 10_state.md R11, R25 (c): each of the six flag-writing instructions that completes leaves VF exactly 0 or 1, whatever
its operands, `x = 15` included. -/
def Obligations.FlagWritersLeaveZeroOrOne : Prop :=
  ∀ (s t : State) (x y : Reg) (n : Nibble) (i : Instr),
    i ∈ [.addReg x y, .subReg x y, .shiftRight x, .subnReg x y, .shiftLeft x, .draw x y n] →
    exec i s = .next t → t.live → t.vf = 0#8 ∨ t.vf = 1#8

/-- 10_state.md R10, R11: over all instructions, a register that is no destination of the instruction keeps its value;
in particular "no other instruction writes VF as a side effect". -/
def Obligations.RegistersChangeOnlyAtDestinations : Prop :=
  ∀ (i : Instr) (s t : State) (r : Reg), exec i s = .next t → ¬ destination i r → t.getV r = s.getV r

/-! ### Index register and memory -/

/-- 43_index_memory.md R84, R85, R86: `zext_16(nnn)`, the sum modulo 65536, and `V[x] × 5` without a mask. -/
def Obligations.IndexRegisterWrites : Prop :=
  ∀ (s : State) (x : Reg) (nnn : Addr),
    (∃ t, exec (.loadIndex nnn) s = .next t ∧ t.i.toNat = nnn.toNat ∧ onlyIndex s t) ∧
    (∃ t, exec (.addIndex x) s = .next t ∧ t.i.toNat = (s.i.toNat + (s.getV x).toNat) % 65536 ∧ onlyIndex s t) ∧
    (∃ t, exec (.loadFontAddr x) s = .next t ∧ t.i.toNat = (s.getV x).toNat * 5 ∧ onlyIndex s t)

/-- 43_index_memory.md R87. -/
def Obligations.StoreBcdDigitsOrFaults : Prop :=
  ∀ (s : State) (x : Reg),
    (s.i.toNat + 2 ≤ 4095 → ∃ t, exec (.storeBcd x) s = .next t ∧
      (t.mem.read s.i.toNat).toNat = (s.getV x).toNat / 100 ∧
      (t.mem.read (s.i.toNat + 1)).toNat = (s.getV x).toNat / 10 % 10 ∧
      (t.mem.read (s.i.toNat + 2)).toNat = (s.getV x).toNat % 10 ∧ onlyMemory s t s.i.toNat 3) ∧
    (4095 < s.i.toNat + 2 → exec (.storeBcd x) s =
      .next (faulted s (.dataAddressOutOfBounds (BitVec.ofNat 16 (max s.i.toNat 4096)) (s.pc - 2#16))))

/-- 43_index_memory.md R88. -/
def Obligations.StoreRegsOrFaults : Prop :=
  ∀ (s : State) (x : Reg),
    (s.i.toNat + x.toNat ≤ 4095 → ∃ t, exec (.storeRegs x) s = .next t ∧
      (∀ r : Reg, r.toNat ≤ x.toNat → t.mem.read (s.i.toNat + r.toNat) = s.getV r) ∧
      onlyMemory s t s.i.toNat (x.toNat + 1)) ∧
    (4095 < s.i.toNat + x.toNat → exec (.storeRegs x) s =
      .next (faulted s (.dataAddressOutOfBounds (BitVec.ofNat 16 (max s.i.toNat 4096)) (s.pc - 2#16))))

/-- 43_index_memory.md R89. -/
def Obligations.LoadRegsOrFaults : Prop :=
  ∀ (s : State) (x : Reg),
    (s.i.toNat + x.toNat ≤ 4095 → ∃ t, exec (.loadRegs x) s = .next t ∧
      (∀ r : Reg, t.getV r = if r.toNat ≤ x.toNat then s.mem.read (s.i.toNat + r.toNat) else s.getV r) ∧
      onlyRegs s t) ∧
    (4095 < s.i.toNat + x.toNat → exec (.loadRegs x) s =
      .next (faulted s (.dataAddressOutOfBounds (BitVec.ofNat 16 (max s.i.toNat 4096)) (s.pc - 2#16))))

/-- Registers stored and loaded back: after `StoreRegs(x)`, whatever the registers then hold, `LoadRegs(x)` brings back
`V[0] .. V[x]` and leaves the registers above `x` (43_index_memory.md R88, R89). -/
def Obligations.LoadRegsUndoesStoreRegs : Prop :=
  ∀ (s : State) (x : Reg) (later : Vector Byte 16), s.i.toNat + x.toNat ≤ 4095 →
    ∃ t u, exec (.storeRegs x) s = .next t ∧ exec (.loadRegs x) { t with v := later } = .next u ∧
      ∀ r : Reg, u.getV r = if r.toNat ≤ x.toNat then s.getV r else later[r.toNat]'r.isLt

/-! ### Display -/

/-- 44_display.md R90: VF and everything else stay. -/
def Obligations.ClearBlanksTheDisplay : Prop :=
  ∀ s : State, ∃ t, exec .clear s = .next t ∧ (∀ c r, t.px.get c r = false) ∧ onlyDisplay s t

/-- 44_display.md R91, R92, R93: every pixel under a set sprite bit is inverted, every other one stays; VF is 1 exactly
if one of the inverted pixels was filled; past address 4095 the fault and nothing else; `n = 0` reads no byte. -/
def Obligations.DrawXorsWithCollision : Prop :=
  ∀ (s : State) (x y : Reg) (n : Nibble),
    (n = 0#4 ∨ s.i.toNat + (n.toNat - 1) ≤ 4095 → ∃ t, exec (.draw x y n) s = .next t ∧
      (∀ c r, s.spriteCovers x y n c r → t.px.get c r = !s.px.get c r) ∧
      (∀ c r, ¬ s.spriteCovers x y n c r → t.px.get c r = s.px.get c r) ∧
      ((∃ c r, s.spriteCovers x y n c r ∧ s.px.get c r = true) → t.getV 15#4 = 1#8) ∧
      ((¬ ∃ c r, s.spriteCovers x y n c r ∧ s.px.get c r = true) → t.getV 15#4 = 0#8) ∧
      (∀ r, r ≠ 15#4 → t.getV r = s.getV r) ∧ t = { s with v := t.v, px := t.px } ∧ keepsMemory s t) ∧
    (n ≠ 0#4 ∧ 4095 < s.i.toNat + (n.toNat - 1) → exec (.draw x y n) s =
      .next (faulted s (.dataAddressOutOfBounds (BitVec.ofNat 16 (max s.i.toNat 4096)) (s.pc - 2#16))))

/-- The same sprite drawn twice at the same place restores the display; on a blank display the first draw reports no
collision and the second reports one exactly if the sprite set any pixel (44_display.md R92, R93). The position registers
are not VF, which the first draw overwrites. -/
def Obligations.DrawingTwiceRestores : Prop :=
  ∀ (s t u : State) (x y : Reg) (n : Nibble), x ≠ 15#4 → y ≠ 15#4 →
    exec (.draw x y n) s = .next t → t.live → exec (.draw x y n) t = .next u →
      (∀ c r, u.px.get c r = s.px.get c r) ∧
      ((∀ c r, s.px.get c r = false) → t.vf = 0#8 ∧ (u.vf = 1#8 ↔ ∃ c r, s.spriteCovers x y n c r))

/-! ### Keypad and timers -/

/-- 45_keypad_timers.md R94, R95, 60_exceptions.md R107. -/
def Obligations.KeySkipsOrFault : Prop :=
  ∀ (s : State) (x : Reg),
    (∀ h : (s.getV x).toNat < 16,
      (∃ t, exec (.skipKeyPressed x) s = .next t ∧
        t.pc = (if s.key[(s.getV x).toNat]'h = true then s.pc + 2#16 else s.pc) ∧ onlyPc s t) ∧
      (∃ t, exec (.skipKeyNotPressed x) s = .next t ∧
        t.pc = (if s.key[(s.getV x).toNat]'h = false then s.pc + 2#16 else s.pc) ∧ onlyPc s t)) ∧
    (15 < (s.getV x).toNat →
      exec (.skipKeyPressed x) s = .next (faulted s (.keyIndexOutOfRange (s.getV x) (s.pc - 2#16))) ∧
      exec (.skipKeyNotPressed x) s = .next (faulted s (.keyIndexOutOfRange (s.getV x) (s.pc - 2#16))))

/-- 45_keypad_timers.md R96, 40_cycle.md R59: the first half clears the slot and waits, with `pc` past the instruction;
the second half writes the slot's key and runs on, the slot kept; until the slot holds a key, `step` and `wake` change
nothing; and in `RUNNING`, whatever the slot still holds, `wake` is not enabled (40_cycle.md R52) and changes nothing. -/
def Obligations.WaitKeyTwoHalves : Prop :=
  (∀ (s : State) (x : Reg), exec (.waitKey x) s = .next { s with lastKey := none, run := .waitKey x }) ∧
  (∀ (s : State) (x : Reg) (k : Key), s.run = .waitKey x → s.lastKey = some k →
    ∃ t, present .wake s = .next t ∧ t.run = .running ∧
      (∀ r, t.getV r = if r = x then k.setWidth 8 else s.getV r) ∧ t = { s with v := t.v, run := .running } ∧
      keepsMemory s t) ∧
  (∀ (s : State) (x : Reg), s.run = .waitKey x → present .step s = .next s) ∧
  (∀ (s : State) (x : Reg), s.run = .waitKey x → s.lastKey = none → present .wake s = .next s) ∧
  (∀ s : State, s.run = .running → present .wake s = .next s)

/-- Which key a wait returns (40_cycle.md R59, 60_exceptions.md R116, 93_implementation_defined.md U4): after any run of
`set_key` events from an empty slot, the slot holds the key of the LAST event that found its key up and pressed it, and
nothing if there was none. -/
def Obligations.SlotHoldsTheLastTransition : Prop :=
  ∀ (s : State) (presses : List (Key × Bool)), s.lastKey = none →
    (∀ k, (keysAfter s presses).lastKey = some k ↔
      ∃ before after, presses = before ++ (k, true) :: after ∧ qualifies (keysAfter s before) (k, true) ∧
        ∀ a e b, after = a ++ e :: b → ¬ qualifies (keysAfter s (before ++ (k, true) :: a)) e) ∧
    ((keysAfter s presses).lastKey = none ↔
      ∀ a e b, presses = a ++ e :: b → ¬ qualifies (keysAfter s a) e)

/-- 45_keypad_timers.md R97, R98, R99. -/
def Obligations.TimerMoves : Prop :=
  ∀ (s : State) (x : Reg),
    (∃ t, exec (.storeDelayTimer x) s = .next t ∧ (∀ r, t.getV r = if r = x then s.dt else s.getV r) ∧
      onlyRegs s t) ∧
    (∃ t, exec (.setDelayTimer x) s = .next t ∧ t = { s with dt := s.getV x } ∧ keepsMemory s t) ∧
    (∃ t, exec (.setSoundTimer x) s = .next t ∧ t = { s with st := s.getV x } ∧ keepsMemory s t)

/-! ### The cycle and the events -/

/-- 40_cycle.md R53 to R57: a step of a running machine whose bytes at `pc` decode to `i` is `exec` of `i` on the state
with `pc` advanced by 2 and the bit of 70_reset_and_hazards.md R124 set (held in State by log entry 10), whether the `step`
event comes from the schedule (the model's own, log entry 8) or is the default of an empty one. -/
def Obligations.StepRunsTheDecodedInstruction : Prop :=
  ∀ (s : State) (i : Instr), s.run = .running → s.pc.toNat + 1 ≤ 4095 →
    decode [s.mem.read s.pc.toNat, s.mem.read (s.pc.toNat + 1)] = .instr i →
    (s.schedule = [] → step s = exec i { s with pc := s.pc + 2#16, loadedOrStarted := true }) ∧
    (∀ rest, s.schedule = .step :: rest →
      step s = exec i { s with pc := s.pc + 2#16, loadedOrStarted := true, schedule := rest })

/-- 40_cycle.md R54, R56, 60_exceptions.md R102, R103: the fetch and the decode fault, each with its record, in that
order; `pc` and everything else stay but `run` and one bit. The bit is `loaded_or_started` of 70_reset_and_hazards.md R124,
which the first `step` sets: that a step that faults sets it too is the model's reading (log entry 10, DEDUCED), beside
60_exceptions.md R112, by which the faulting event writes nothing. -/
def Obligations.FetchAndDecodeFaults : Prop :=
  ∀ s : State, s.run = .running →
    (4095 < s.pc.toNat + 1 → present .step s =
      .next { s with run := .halted (.programCounterOutOfBounds s.pc), loadedOrStarted := true }) ∧
    (∀ w : Word, s.pc.toNat + 1 ≤ 4095 →
      w.toNat = (s.mem.read s.pc.toNat).toNat * 256 + (s.mem.read (s.pc.toNat + 1)).toNat → decodeWord w = none →
      present .step s = .next { s with run := .halted (.unsupportedOpcode w s.pc), loadedOrStarted := true })

/-- 40_cycle.md R54, 20_memory.md R30: the fetched word is `mem[pc] × 256 + mem[pc+1]`, at any `pc`, even or odd. -/
def Obligations.FetchIsBigEndian : Prop :=
  ∀ s : State, s.fetchWord.toNat = (s.mem.read s.pc.toNat).toNat * 256 + (s.mem.read (s.pc.toNat + 1)).toNat

/-- 20_memory.md R39: self-modifying code works: registers stored at `I` are what a later fetch at that address reads,
high byte first. -/
def Obligations.StoredRegistersAreFetched : Prop :=
  ∀ (s : State) (x : Reg), 1 ≤ x.toNat → s.i.toNat + x.toNat ≤ 4095 →
    ∃ t, exec (.storeRegs x) s = .next t ∧
      ({ t with pc := s.i } : State).fetchWord.toNat = (s.getV 0#4).toNat * 256 + (s.getV 1#4).toNat

/-- 60_exceptions.md R115: each timer independently one less, clamped at 0 (truncated subtraction on naturals). -/
def Obligations.TickCountsBothTimersDown : Prop :=
  ∀ s : State, s.live → ∃ t, present .tick s = .next t ∧ t.dt.toNat = s.dt.toNat - 1 ∧ t.st.toNat = s.st.toNat - 1 ∧
    t = { s with dt := t.dt, st := t.st } ∧ keepsMemory s t

/-- 60_exceptions.md R116. -/
def Obligations.SetKeyUpdatesTheKeypad : Prop :=
  ∀ (s : State) (k : Key), s.live →
    (s.getKey k = false → ∃ t, present (.setKey k true) s = .next t ∧ t.lastKey = some k ∧
      (∀ j, t.getKey j = if j = k then true else s.getKey j) ∧ t = { s with key := t.key, lastKey := some k }) ∧
    (s.getKey k = true → present (.setKey k true) s = .next s) ∧
    (∃ t, present (.setKey k false) s = .next t ∧ (∀ j, t.getKey j = if j = k then false else s.getKey j) ∧
      t = { s with key := t.key })

/-- 70_reset_and_hazards.md R123: from every state, halted or not, `reset` gives the values of 10_state.md R26. The last
clause is R124's "cleared by `reset`" for the bit `loaded_or_started`, which the model holds in State (log entry 10,
DEDUCED). -/
def Obligations.ResetRecreatesTheMachine : Prop :=
  ∀ s : State, ∃ t, present .reset s = .next t ∧ (∀ r, t.getV r = 0#8) ∧ t.i = 0#16 ∧ t.pc = 0x200#16 ∧
    t.sp.val = 0 ∧ t.dt = 0#8 ∧ t.st = 0#8 ∧ (∀ a, a < 80 → t.mem.read a = Config.font a) ∧
    (∀ a, 80 ≤ a → a < 4096 → t.mem.read a = 0#8) ∧ (∀ c r, t.px.get c r = false) ∧ (∀ k, t.getKey k = false) ∧
    t.lastKey = none ∧ t.run = .running ∧ t.loadedOrStarted = false

/-- 10_state.md R26: the state a model's run begins in. -/
def Obligations.ResetStateValues : Prop :=
  (∀ r, State.reset.getV r = 0#8) ∧ State.reset.i = 0#16 ∧ State.reset.pc = 0x200#16 ∧ State.reset.sp.val = 0 ∧
  State.reset.dt = 0#8 ∧ State.reset.st = 0#8 ∧ (∀ a, a < 80 → State.reset.mem.read a = Config.font a) ∧
  (∀ a, 80 ≤ a → a < 4096 → State.reset.mem.read a = 0#8) ∧ (∀ c r, State.reset.px.get c r = false) ∧
  (∀ k, State.reset.getKey k = false) ∧ State.reset.lastKey = none ∧ State.reset.run = .running

/-- 70_reset_and_hazards.md R124, 60_exceptions.md R101: a ROM that fits is copied to 0x200 on and nothing else changes; a
longer one halts the machine with no byte written; the bit `loaded_or_started` is set by an accepted or failed load and by
a step, cleared by `reset`, while it is set a load changes nothing, and "no instruction can observe that bit". The bit is
held in State by log entry 10; that a step that faults sets it too is the model's reading (log entry 10, DEDUCED). -/
def Obligations.LoadRomCopiesOrFaults : Prop :=
  ∀ (s : State) (bytes : List Byte), s.live →
    (s.loadedOrStarted = false → bytes.length ≤ 3584 → ∃ t, present (.loadRom bytes) s = .next t ∧
      (∀ k, ∀ h : k < bytes.length, t.mem.read (0x200 + k) = bytes[k]) ∧
      (∀ a, a < 0x200 ∨ 0x200 + bytes.length ≤ a → t.mem.read a = s.mem.read a) ∧
      t = { s with mem := t.mem, loadedOrStarted := true }) ∧
    (s.loadedOrStarted = false → 3584 < bytes.length → present (.loadRom bytes) s =
      .next { s with run := .halted (.programTooLarge bytes.length), loadedOrStarted := true }) ∧
    (s.loadedOrStarted = true → present (.loadRom bytes) s = .next s) ∧
    (∀ t, s.run = .running → present .step s = .next t → t.loadedOrStarted = true) ∧
    (∃ t, present .reset s = .next t ∧ t.loadedOrStarted = false) ∧
    ∀ (i : Instr) (t : State) (other : Bool), exec i s = .next t →
      exec i { s with loadedOrStarted := other } = .next { t with loadedOrStarted := other }

/-- 60_exceptions.md R113, 40_cycle.md R60: in `HALTED` every event but `reset` leaves the whole state unchanged; `reset`
runs again and "loses all state": what it leaves is the same from every state, but for the environment's schedule and
draws (log entry 12). -/
def Obligations.HaltedIsLeftByResetAlone : Prop :=
  ∀ (s : State) (f : Fault), s.run = .halted f →
    (∀ e : Event, e ≠ .reset → present e s = .next s) ∧
    ∃ t, present .reset s = .next t ∧ t.run = .running ∧
      ∀ other u : State, present .reset other = .next u → t = { u with schedule := t.schedule, draws := t.draws }

/-- How the step takes its event (the model's own schedule, log entries 8 and 9; it stands for the open order of
40_cycle.md R61): the first of the schedule; with none left a running machine has a `step` event, whatever its fetch and
decode give, a waiting one wakes when it can, and a halted one and one that waits for a key stay as they are. -/
def Obligations.StepTakesTheScheduledEvent : Prop :=
  ∀ s : State,
    (∀ e rest, s.schedule = e :: rest → step s = present e { s with schedule := rest }) ∧
    (s.schedule = [] → s.run = .running → step s = present .step s) ∧
    (∀ x k, s.schedule = [] → s.run = .waitKey x → s.lastKey = some k → step s = present .wake s) ∧
    (∀ x, s.schedule = [] → s.run = .waitKey x → s.lastKey = none → step s = .next s) ∧
    (∀ f, s.schedule = [] → s.run = .halted f → step s = .next s)

/-- A table word placed where the step fetches is run by the very next step, from every state (log entry 11;
the bit the step sets: log entry 10). -/
def Obligations.PlacedWordRunsNext : Prop :=
  ∀ (s : State) (w : Word) (i : Instr), decodeWord w = some i →
    step (s.withFetchWord 16 w.toNat) =
      exec i { s.withFetchWord 16 w.toNat with
        pc := (s.withFetchWord 16 w.toNat).pc + 2#16, loadedOrStarted := true }

/-! ### Rules of the whole machine -/

/-- Every instruction on every state, and every step, answers the host's outcome `next`. This is the MODEL'S choice of
outcome: 00_scope.md R7 says that an event completes or faults, and that one that is not enabled has no step and is refused.
In the model a fault is taken as a next state with `run` HALTED (log entry 7, DEDUCED), and an event that is not enabled
gives the same state (log entry 9, DEDUCED). So `next` does not mean "completed". -/
def Obligations.EveryStepAnswersNext : Prop :=
  (∀ (i : Instr) (s : State), ∃ t, exec i s = .next t) ∧ ∀ s : State, ∃ t, step s = .next t

/-- 60_exceptions.md R112: whatever event raises a fault, every write of the event is discarded, then `run` is the
record: `pc` is the faulting instruction's address and nothing else differs, but for the bit `loaded_or_started` of
70_reset_and_hazards.md R124, which the model sets also by a step that faults (log entry 10, DEDUCED). -/
def Obligations.FaultsArePrecise : Prop :=
  ∀ (e : Event) (s t : State) (f : Fault), s.live → present e s = .next t → t.run = .halted f →
    t = { s with run := .halted f, loadedOrStarted := true }

/-- Who writes what, over all instructions: `I` (10_state.md R12), `pc` (R13), the stack (R14), the timers (R15, R16),
memory (20_memory.md R28), the display (10_state.md R18), the keypad (R19: no instruction), the slot (R20), the run state
(R21); the bit of 70_reset_and_hazards.md R124 (no instruction; log entry 10) and the model's own fields too. -/
def Obligations.StateWrittenOnlyByItsInstructions : Prop :=
  ∀ (i : Instr) (s t : State), exec i s = .next t →
    t.key = s.key ∧ t.loadedOrStarted = s.loadedOrStarted ∧ t.schedule = s.schedule ∧
    (t.i ≠ s.i → (∃ nnn, i = .loadIndex nnn) ∨ (∃ x, i = .addIndex x) ∨ ∃ x, i = .loadFontAddr x) ∧
    (t.pc ≠ s.pc → writesPc i ∨ t.run.isHalted = true) ∧
    (t.sp ≠ s.sp → i = .ret ∨ ∃ nnn, i = .call nnn) ∧
    (t.stack ≠ s.stack → ∃ nnn, i = .call nnn) ∧
    (t.dt ≠ s.dt → ∃ x, i = .setDelayTimer x) ∧
    (t.st ≠ s.st → ∃ x, i = .setSoundTimer x) ∧
    (t.mem ≠ s.mem → (∃ x, i = .storeBcd x) ∨ ∃ x, i = .storeRegs x) ∧
    (t.px ≠ s.px → i = .clear ∨ ∃ x y n, i = .draw x y n) ∧
    (t.lastKey ≠ s.lastKey → ∃ x, i = .waitKey x) ∧
    (t.run ≠ s.run → (∃ x, i = .waitKey x) ∨ t.run.isHalted = true) ∧
    (t.draws ≠ s.draws → ∃ x kk, i = .random x kk)

/-- 10_state.md R16: "No instruction reads it": two states that differ in `ST` alone stay so, and `SetSoundTimer` makes
them equal. -/
def Obligations.SoundTimerIsNeverRead : Prop :=
  ∀ (i : Instr) (s t : State) (other : Byte), exec i s = .next t →
    ((∀ x, i ≠ .setSoundTimer x) → exec i { s with st := other } = .next { t with st := other }) ∧
    ((∃ x, i = .setSoundTimer x) → exec i { s with st := other } = .next t)

/-- 10_state.md R20: no instruction reads the slot; `WaitKey` clears it, every other one leaves it. -/
def Obligations.SlotIsNeverReadByAnInstruction : Prop :=
  ∀ (i : Instr) (s t : State) (other : Option Key), exec i s = .next t →
    ((∀ x, i ≠ .waitKey x) → exec i { s with lastKey := other } = .next { t with lastKey := other }) ∧
    ((∃ x, i = .waitKey x) → exec i { s with lastKey := other } = .next t)

/-- 10_state.md R14: "Entries at index ≥ sp are never read": two states that agree but for dead stack entries still do
after any instruction. -/
def Obligations.DeadStackEntriesAreNeverRead : Prop :=
  ∀ (i : Instr) (s t : State) (other : Vector Word 16), exec i s = .next t →
    (∀ k : Fin 16, k.val < s.sp.val → other[k] = s.stack[k]) →
    ∃ u, exec i { s with stack := other } = .next u ∧ u = { t with stack := u.stack } ∧
      ∀ k : Fin 16, k.val < t.sp.val → u.stack[k] = t.stack[k]

/-! ### Invariants -/

/-- From every state with memory in canonical form and inside `0..4095`, every step leaves it so. The form (addresses
strictly rising, no entry equal to its address's reset content) is the MODEL'S own (log entry 5, DESIGN CHOICE); that no
address above 4095 is ever written is 10_state.md R17 and 20_memory.md R34. -/
def Obligations.StepKeepsMemoryCanonical : Prop :=
  ∀ s t : State, s.memOk → step s = .next t → t.memOk

/-- 10_state.md R13: "the largest value any rule can produce is 0x10FE", from every state in which it holds, with the
bound 4096 on return addresses of 41_flow.md R63. -/
def Obligations.StepKeepsPcBound : Prop :=
  ∀ s t : State, s.pcOk → step s = .next t → t.pcOk

/-- 10_state.md R25 (e): while the machine waits, `pc` stands after the `WaitKey` it executes. That the bit of
70_reset_and_hazards.md R124 is then set (log entry 10) keeps a `load_rom` from changing those bytes. -/
def Obligations.StepKeepsWaitAfterWaitKey : Prop :=
  ∀ s t : State, s.waitOk → step s = .next t → t.waitOk

/-- All three invariants hold at reset: memory's canonical form, which is the MODEL'S own (log entry 5, DESIGN CHOICE), the
bounds of `pc` and the return addresses (10_state.md R13, R26), and the wait's (R25 (e), R26: nothing waits at reset). -/
def Obligations.ResetMeetsTheInvariants : Prop := State.reset.Inv
end

