-- ==== Sys2Proof/Laws/Decode.lean ====
section
/-! SUPPORT. The fields of an encoded word (30_encoding.md R43), format by format, and a word put together again from
its fields. -/

namespace Sys2Proof

section
variable (op x y n : Nibble) (kk : Byte) (nnn : Addr) (w : Word)

@[simp] theorem fieldN0_encodeNNN : fieldN0 (encodeNNN op nnn) = op := by
  simp only [fieldN0, encodeNNN]
  apply BitVec.eq_of_getLsbD_eq
  intro i hi
  simp only [BitVec.getLsbD_extractLsb', BitVec.getLsbD_append]
  interval_cases i <;> simp

@[simp] theorem fieldNNN_encodeNNN : fieldNNN (encodeNNN op nnn) = nnn := by
  simp only [fieldNNN, encodeNNN]
  apply BitVec.eq_of_getLsbD_eq
  intro i hi
  simp only [BitVec.getLsbD_extractLsb', BitVec.getLsbD_append]
  interval_cases i <;> simp

@[simp] theorem fieldN0_encodeXKK : fieldN0 (encodeXKK op x kk) = op := by
  simp only [fieldN0, encodeXKK]
  apply BitVec.eq_of_getLsbD_eq
  intro i hi
  simp only [BitVec.getLsbD_extractLsb', BitVec.getLsbD_append]
  interval_cases i <;> simp

@[simp] theorem fieldX_encodeXKK : fieldX (encodeXKK op x kk) = x := by
  simp only [fieldX, encodeXKK]
  apply BitVec.eq_of_getLsbD_eq
  intro i hi
  simp only [BitVec.getLsbD_extractLsb', BitVec.getLsbD_append]
  interval_cases i <;> simp

@[simp] theorem fieldKK_encodeXKK : fieldKK (encodeXKK op x kk) = kk := by
  simp only [fieldKK, encodeXKK]
  apply BitVec.eq_of_getLsbD_eq
  intro i hi
  simp only [BitVec.getLsbD_extractLsb', BitVec.getLsbD_append]
  interval_cases i <;> simp

@[simp] theorem fieldN0_encodeXY : fieldN0 (encodeXY op x y n) = op := by
  simp only [fieldN0, encodeXY]
  apply BitVec.eq_of_getLsbD_eq
  intro i hi
  simp only [BitVec.getLsbD_extractLsb', BitVec.getLsbD_append]
  interval_cases i <;> simp

@[simp] theorem fieldX_encodeXY : fieldX (encodeXY op x y n) = x := by
  simp only [fieldX, encodeXY]
  apply BitVec.eq_of_getLsbD_eq
  intro i hi
  simp only [BitVec.getLsbD_extractLsb', BitVec.getLsbD_append]
  interval_cases i <;> simp

@[simp] theorem fieldY_encodeXY : fieldY (encodeXY op x y n) = y := by
  simp only [fieldY, encodeXY]
  apply BitVec.eq_of_getLsbD_eq
  intro i hi
  simp only [BitVec.getLsbD_extractLsb', BitVec.getLsbD_append]
  interval_cases i <;> simp

@[simp] theorem fieldN_encodeXY : fieldN (encodeXY op x y n) = n := by
  simp only [fieldN, encodeXY]
  apply BitVec.eq_of_getLsbD_eq
  intro i hi
  simp only [BitVec.getLsbD_extractLsb', BitVec.getLsbD_append]
  interval_cases i <;> simp

/-- The `X` format is the `XY` format with the constant byte's two nibbles as the last two digits. -/
theorem encodeX_eq_encodeXY : encodeX op x kk = encodeXY op x (kk.extractLsb' 4 4) (kk.extractLsb' 0 4) := by
  simp only [encodeX, encodeXY]
  apply BitVec.eq_of_getLsbD_eq
  intro i hi
  simp only [BitVec.getLsbD_extractLsb', BitVec.getLsbD_append]
  interval_cases i <;> simp

theorem encodeNNN_fields : encodeNNN (fieldN0 w) (fieldNNN w) = w := by
  simp only [encodeNNN, fieldN0, fieldNNN]
  apply BitVec.eq_of_getLsbD_eq
  intro i hi
  simp only [BitVec.getLsbD_extractLsb', BitVec.getLsbD_append]
  interval_cases i <;> simp

theorem encodeXKK_fields : encodeXKK (fieldN0 w) (fieldX w) (fieldKK w) = w := by
  simp only [encodeXKK, fieldN0, fieldX, fieldKK]
  apply BitVec.eq_of_getLsbD_eq
  intro i hi
  simp only [BitVec.getLsbD_extractLsb', BitVec.getLsbD_append]
  interval_cases i <;> simp

theorem encodeXY_fields : encodeXY (fieldN0 w) (fieldX w) (fieldY w) (fieldN w) = w := by
  simp only [encodeXY, fieldN0, fieldX, fieldY, fieldN]
  apply BitVec.eq_of_getLsbD_eq
  intro i hi
  simp only [BitVec.getLsbD_extractLsb', BitVec.getLsbD_append]
  interval_cases i <;> simp

end

/-- What `Decode` answers is a row of R46 that matches, and the instruction that row assembles. -/
theorem decodeWord_some {w : Word} {i : Instr} (h : decodeWord w = some i) :
    ∃ r ∈ opcodeMap, rowMatches r w = true ∧ r.make w = i := by
  obtain ⟨r, hr, hi⟩ := Option.map_eq_some_iff.mp h
  exact ⟨r, List.mem_of_find?_eq_some hr, by simpa using List.find?_some (p := fun r => rowMatches r w) hr, hi⟩

/-- `Unsupported`: no row of R46 matches (30_encoding.md R47). -/
theorem decodeWord_none {w : Word} : decodeWord w = none ↔ ∀ r ∈ opcodeMap, rowMatches r w = false := by
  simp [decodeWord]

end Sys2Proof
end

