-- ==== Sys2Proof/Laws/State.lean ====
section
/-! SUPPORT. What each update of the state does to each field, one lemma per field per update. -/

namespace Sys2Proof.Machine

variable (s : State)
section
variable (x : Reg) (b : Byte)
@[simp] theorem State.setV_i : (s.setV x b).i = s.i := rfl
@[simp] theorem State.setV_pc : (s.setV x b).pc = s.pc := rfl
@[simp] theorem State.setV_sp : (s.setV x b).sp = s.sp := rfl
@[simp] theorem State.setV_stack : (s.setV x b).stack = s.stack := rfl
@[simp] theorem State.setV_dt : (s.setV x b).dt = s.dt := rfl
@[simp] theorem State.setV_st : (s.setV x b).st = s.st := rfl
@[simp] theorem State.setV_mem : (s.setV x b).mem = s.mem := rfl
@[simp] theorem State.setV_px : (s.setV x b).px = s.px := rfl
@[simp] theorem State.setV_key : (s.setV x b).key = s.key := rfl
@[simp] theorem State.setV_lastKey : (s.setV x b).lastKey = s.lastKey := rfl
@[simp] theorem State.setV_run : (s.setV x b).run = s.run := rfl
@[simp] theorem State.setV_loadedOrStarted : (s.setV x b).loadedOrStarted = s.loadedOrStarted := rfl
@[simp] theorem State.setV_schedule : (s.setV x b).schedule = s.schedule := rfl
@[simp] theorem State.setV_draws : (s.setV x b).draws = s.draws := rfl
end

section
variable (b : Bool)
@[simp] theorem State.setFlag_i : (s.setFlag b).i = s.i := rfl
@[simp] theorem State.setFlag_pc : (s.setFlag b).pc = s.pc := rfl
@[simp] theorem State.setFlag_sp : (s.setFlag b).sp = s.sp := rfl
@[simp] theorem State.setFlag_stack : (s.setFlag b).stack = s.stack := rfl
@[simp] theorem State.setFlag_dt : (s.setFlag b).dt = s.dt := rfl
@[simp] theorem State.setFlag_st : (s.setFlag b).st = s.st := rfl
@[simp] theorem State.setFlag_mem : (s.setFlag b).mem = s.mem := rfl
@[simp] theorem State.setFlag_px : (s.setFlag b).px = s.px := rfl
@[simp] theorem State.setFlag_key : (s.setFlag b).key = s.key := rfl
@[simp] theorem State.setFlag_lastKey : (s.setFlag b).lastKey = s.lastKey := rfl
@[simp] theorem State.setFlag_run : (s.setFlag b).run = s.run := rfl
@[simp] theorem State.setFlag_loadedOrStarted : (s.setFlag b).loadedOrStarted = s.loadedOrStarted := rfl
@[simp] theorem State.setFlag_schedule : (s.setFlag b).schedule = s.schedule := rfl
@[simp] theorem State.setFlag_draws : (s.setFlag b).draws = s.draws := rfl
end

section
variable (x : Reg) (r : Byte) (b : Bool)
@[simp] theorem State.setResultFlag_i : (s.setResultFlag x r b).i = s.i := rfl
@[simp] theorem State.setResultFlag_pc : (s.setResultFlag x r b).pc = s.pc := rfl
@[simp] theorem State.setResultFlag_sp : (s.setResultFlag x r b).sp = s.sp := rfl
@[simp] theorem State.setResultFlag_stack : (s.setResultFlag x r b).stack = s.stack := rfl
@[simp] theorem State.setResultFlag_dt : (s.setResultFlag x r b).dt = s.dt := rfl
@[simp] theorem State.setResultFlag_st : (s.setResultFlag x r b).st = s.st := rfl
@[simp] theorem State.setResultFlag_mem : (s.setResultFlag x r b).mem = s.mem := rfl
@[simp] theorem State.setResultFlag_px : (s.setResultFlag x r b).px = s.px := rfl
@[simp] theorem State.setResultFlag_key : (s.setResultFlag x r b).key = s.key := rfl
@[simp] theorem State.setResultFlag_lastKey : (s.setResultFlag x r b).lastKey = s.lastKey := rfl
@[simp] theorem State.setResultFlag_run : (s.setResultFlag x r b).run = s.run := rfl
@[simp] theorem State.setResultFlag_loadedOrStarted : (s.setResultFlag x r b).loadedOrStarted = s.loadedOrStarted := rfl
@[simp] theorem State.setResultFlag_schedule : (s.setResultFlag x r b).schedule = s.schedule := rfl
@[simp] theorem State.setResultFlag_draws : (s.setResultFlag x r b).draws = s.draws := rfl
end

section
variable (w : Word)
@[simp] theorem State.setPc_v : (s.setPc w).v = s.v := rfl
@[simp] theorem State.setPc_i : (s.setPc w).i = s.i := rfl
@[simp] theorem State.setPc_pc : (s.setPc w).pc = w := rfl
@[simp] theorem State.setPc_sp : (s.setPc w).sp = s.sp := rfl
@[simp] theorem State.setPc_stack : (s.setPc w).stack = s.stack := rfl
@[simp] theorem State.setPc_dt : (s.setPc w).dt = s.dt := rfl
@[simp] theorem State.setPc_st : (s.setPc w).st = s.st := rfl
@[simp] theorem State.setPc_mem : (s.setPc w).mem = s.mem := rfl
@[simp] theorem State.setPc_px : (s.setPc w).px = s.px := rfl
@[simp] theorem State.setPc_key : (s.setPc w).key = s.key := rfl
@[simp] theorem State.setPc_lastKey : (s.setPc w).lastKey = s.lastKey := rfl
@[simp] theorem State.setPc_run : (s.setPc w).run = s.run := rfl
@[simp] theorem State.setPc_loadedOrStarted : (s.setPc w).loadedOrStarted = s.loadedOrStarted := rfl
@[simp] theorem State.setPc_schedule : (s.setPc w).schedule = s.schedule := rfl
@[simp] theorem State.setPc_draws : (s.setPc w).draws = s.draws := rfl
end

section
variable (w : Word)
@[simp] theorem State.setI_v : (s.setI w).v = s.v := rfl
@[simp] theorem State.setI_i : (s.setI w).i = w := rfl
@[simp] theorem State.setI_pc : (s.setI w).pc = s.pc := rfl
@[simp] theorem State.setI_sp : (s.setI w).sp = s.sp := rfl
@[simp] theorem State.setI_stack : (s.setI w).stack = s.stack := rfl
@[simp] theorem State.setI_dt : (s.setI w).dt = s.dt := rfl
@[simp] theorem State.setI_st : (s.setI w).st = s.st := rfl
@[simp] theorem State.setI_mem : (s.setI w).mem = s.mem := rfl
@[simp] theorem State.setI_px : (s.setI w).px = s.px := rfl
@[simp] theorem State.setI_key : (s.setI w).key = s.key := rfl
@[simp] theorem State.setI_lastKey : (s.setI w).lastKey = s.lastKey := rfl
@[simp] theorem State.setI_run : (s.setI w).run = s.run := rfl
@[simp] theorem State.setI_loadedOrStarted : (s.setI w).loadedOrStarted = s.loadedOrStarted := rfl
@[simp] theorem State.setI_schedule : (s.setI w).schedule = s.schedule := rfl
@[simp] theorem State.setI_draws : (s.setI w).draws = s.draws := rfl
end

section
variable (f : Fault)
@[simp] theorem State.halt_v : (s.halt f).v = s.v := rfl
@[simp] theorem State.halt_i : (s.halt f).i = s.i := rfl
@[simp] theorem State.halt_pc : (s.halt f).pc = s.pc := rfl
@[simp] theorem State.halt_sp : (s.halt f).sp = s.sp := rfl
@[simp] theorem State.halt_stack : (s.halt f).stack = s.stack := rfl
@[simp] theorem State.halt_dt : (s.halt f).dt = s.dt := rfl
@[simp] theorem State.halt_st : (s.halt f).st = s.st := rfl
@[simp] theorem State.halt_mem : (s.halt f).mem = s.mem := rfl
@[simp] theorem State.halt_px : (s.halt f).px = s.px := rfl
@[simp] theorem State.halt_key : (s.halt f).key = s.key := rfl
@[simp] theorem State.halt_lastKey : (s.halt f).lastKey = s.lastKey := rfl
@[simp] theorem State.halt_run : (s.halt f).run = .halted f := rfl
@[simp] theorem State.halt_loadedOrStarted : (s.halt f).loadedOrStarted = s.loadedOrStarted := rfl
@[simp] theorem State.halt_schedule : (s.halt f).schedule = s.schedule := rfl
@[simp] theorem State.halt_draws : (s.halt f).draws = s.draws := rfl
end

section
variable (k : Key) (b : Bool)
@[simp] theorem State.setKeyBit_v : (s.setKeyBit k b).v = s.v := rfl
@[simp] theorem State.setKeyBit_i : (s.setKeyBit k b).i = s.i := rfl
@[simp] theorem State.setKeyBit_pc : (s.setKeyBit k b).pc = s.pc := rfl
@[simp] theorem State.setKeyBit_sp : (s.setKeyBit k b).sp = s.sp := rfl
@[simp] theorem State.setKeyBit_stack : (s.setKeyBit k b).stack = s.stack := rfl
@[simp] theorem State.setKeyBit_dt : (s.setKeyBit k b).dt = s.dt := rfl
@[simp] theorem State.setKeyBit_st : (s.setKeyBit k b).st = s.st := rfl
@[simp] theorem State.setKeyBit_mem : (s.setKeyBit k b).mem = s.mem := rfl
@[simp] theorem State.setKeyBit_px : (s.setKeyBit k b).px = s.px := rfl
@[simp] theorem State.setKeyBit_lastKey : (s.setKeyBit k b).lastKey = s.lastKey := rfl
@[simp] theorem State.setKeyBit_run : (s.setKeyBit k b).run = s.run := rfl
@[simp] theorem State.setKeyBit_loadedOrStarted : (s.setKeyBit k b).loadedOrStarted = s.loadedOrStarted := rfl
@[simp] theorem State.setKeyBit_schedule : (s.setKeyBit k b).schedule = s.schedule := rfl
@[simp] theorem State.setKeyBit_draws : (s.setKeyBit k b).draws = s.draws := rfl
end

section
@[simp] theorem State.markStarted_v : s.markStarted.v = s.v := rfl
@[simp] theorem State.markStarted_i : s.markStarted.i = s.i := rfl
@[simp] theorem State.markStarted_pc : s.markStarted.pc = s.pc := rfl
@[simp] theorem State.markStarted_sp : s.markStarted.sp = s.sp := rfl
@[simp] theorem State.markStarted_stack : s.markStarted.stack = s.stack := rfl
@[simp] theorem State.markStarted_dt : s.markStarted.dt = s.dt := rfl
@[simp] theorem State.markStarted_st : s.markStarted.st = s.st := rfl
@[simp] theorem State.markStarted_mem : s.markStarted.mem = s.mem := rfl
@[simp] theorem State.markStarted_px : s.markStarted.px = s.px := rfl
@[simp] theorem State.markStarted_key : s.markStarted.key = s.key := rfl
@[simp] theorem State.markStarted_lastKey : s.markStarted.lastKey = s.lastKey := rfl
@[simp] theorem State.markStarted_run : s.markStarted.run = s.run := rfl
@[simp] theorem State.markStarted_loadedOrStarted : s.markStarted.loadedOrStarted = true := rfl
@[simp] theorem State.markStarted_schedule : s.markStarted.schedule = s.schedule := rfl
@[simp] theorem State.markStarted_draws : s.markStarted.draws = s.draws := rfl
end

section
@[simp] theorem State.advance_v : s.advance.v = s.v := rfl
@[simp] theorem State.advance_i : s.advance.i = s.i := rfl
@[simp] theorem State.advance_pc : s.advance.pc = s.pc + 2#16 := rfl
@[simp] theorem State.advance_sp : s.advance.sp = s.sp := rfl
@[simp] theorem State.advance_stack : s.advance.stack = s.stack := rfl
@[simp] theorem State.advance_dt : s.advance.dt = s.dt := rfl
@[simp] theorem State.advance_st : s.advance.st = s.st := rfl
@[simp] theorem State.advance_mem : s.advance.mem = s.mem := rfl
@[simp] theorem State.advance_px : s.advance.px = s.px := rfl
@[simp] theorem State.advance_key : s.advance.key = s.key := rfl
@[simp] theorem State.advance_lastKey : s.advance.lastKey = s.lastKey := rfl
@[simp] theorem State.advance_run : s.advance.run = s.run := rfl
@[simp] theorem State.advance_loadedOrStarted : s.advance.loadedOrStarted = s.loadedOrStarted := rfl
@[simp] theorem State.advance_schedule : s.advance.schedule = s.schedule := rfl
@[simp] theorem State.advance_draws : s.advance.draws = s.draws := rfl
end

section
variable (taken : Bool)
@[simp] theorem State.skipIf_v : (s.skipIf taken).v = s.v := by cases taken <;> rfl
@[simp] theorem State.skipIf_i : (s.skipIf taken).i = s.i := by cases taken <;> rfl
theorem State.skipIf_pc : (s.skipIf taken).pc = if taken then s.pc + 2#16 else s.pc := by cases taken <;> rfl
@[simp] theorem State.skipIf_sp : (s.skipIf taken).sp = s.sp := by cases taken <;> rfl
@[simp] theorem State.skipIf_stack : (s.skipIf taken).stack = s.stack := by cases taken <;> rfl
@[simp] theorem State.skipIf_dt : (s.skipIf taken).dt = s.dt := by cases taken <;> rfl
@[simp] theorem State.skipIf_st : (s.skipIf taken).st = s.st := by cases taken <;> rfl
@[simp] theorem State.skipIf_mem : (s.skipIf taken).mem = s.mem := by cases taken <;> rfl
@[simp] theorem State.skipIf_px : (s.skipIf taken).px = s.px := by cases taken <;> rfl
@[simp] theorem State.skipIf_key : (s.skipIf taken).key = s.key := by cases taken <;> rfl
@[simp] theorem State.skipIf_lastKey : (s.skipIf taken).lastKey = s.lastKey := by cases taken <;> rfl
@[simp] theorem State.skipIf_run : (s.skipIf taken).run = s.run := by cases taken <;> rfl
@[simp] theorem State.skipIf_loadedOrStarted : (s.skipIf taken).loadedOrStarted = s.loadedOrStarted := by cases taken <;> rfl
@[simp] theorem State.skipIf_schedule : (s.skipIf taken).schedule = s.schedule := by cases taken <;> rfl
@[simp] theorem State.skipIf_draws : (s.skipIf taken).draws = s.draws := by cases taken <;> rfl
end

section
variable (w : Word) (h : s.sp.val < Config.stackDepth)
@[simp] theorem State.push_v : (s.push w h).v = s.v := rfl
@[simp] theorem State.push_i : (s.push w h).i = s.i := rfl
@[simp] theorem State.push_pc : (s.push w h).pc = s.pc := rfl
@[simp] theorem State.push_sp : (s.push w h).sp.val = s.sp.val + 1 := rfl
@[simp] theorem State.push_stack : (s.push w h).stack = s.stack.set s.sp.val w h := rfl
@[simp] theorem State.push_dt : (s.push w h).dt = s.dt := rfl
@[simp] theorem State.push_st : (s.push w h).st = s.st := rfl
@[simp] theorem State.push_mem : (s.push w h).mem = s.mem := rfl
@[simp] theorem State.push_px : (s.push w h).px = s.px := rfl
@[simp] theorem State.push_key : (s.push w h).key = s.key := rfl
@[simp] theorem State.push_lastKey : (s.push w h).lastKey = s.lastKey := rfl
@[simp] theorem State.push_run : (s.push w h).run = s.run := rfl
@[simp] theorem State.push_loadedOrStarted : (s.push w h).loadedOrStarted = s.loadedOrStarted := rfl
@[simp] theorem State.push_schedule : (s.push w h).schedule = s.schedule := rfl
@[simp] theorem State.push_draws : (s.push w h).draws = s.draws := rfl
end

section
variable (h : 0 < s.sp.val)
@[simp] theorem State.pop_v : (s.pop h).2.v = s.v := rfl
@[simp] theorem State.pop_i : (s.pop h).2.i = s.i := rfl
@[simp] theorem State.pop_pc : (s.pop h).2.pc = s.pc := rfl
@[simp] theorem State.pop_sp : (s.pop h).2.sp.val = s.sp.val - 1 := rfl
@[simp] theorem State.pop_stack : (s.pop h).2.stack = s.stack := rfl
@[simp] theorem State.pop_dt : (s.pop h).2.dt = s.dt := rfl
@[simp] theorem State.pop_st : (s.pop h).2.st = s.st := rfl
@[simp] theorem State.pop_mem : (s.pop h).2.mem = s.mem := rfl
@[simp] theorem State.pop_px : (s.pop h).2.px = s.px := rfl
@[simp] theorem State.pop_key : (s.pop h).2.key = s.key := rfl
@[simp] theorem State.pop_lastKey : (s.pop h).2.lastKey = s.lastKey := rfl
@[simp] theorem State.pop_run : (s.pop h).2.run = s.run := rfl
@[simp] theorem State.pop_loadedOrStarted : (s.pop h).2.loadedOrStarted = s.loadedOrStarted := rfl
@[simp] theorem State.pop_schedule : (s.pop h).2.schedule = s.schedule := rfl
@[simp] theorem State.pop_draws : (s.pop h).2.draws = s.draws := rfl
end

end Sys2Proof.Machine
end

