-- ==== Sys2Proof/Laws/Ops.lean ====
section
/-! SUPPORT. What each shared operation does, said once: registers, flags, stack, display, keypad, bounds checks, and
events. -/

namespace Sys2Proof.Machine

/-! The bounds of the registers as numerals, for `omega` (10_state.md R25 (b)). -/

theorem State.getV_lt (s : State) (x : Reg) : (s.getV x).toNat < 256 := (s.getV x).isLt

theorem State.i_lt (s : State) : s.i.toNat < 65536 := s.i.isLt

theorem State.pc_lt (s : State) : s.pc.toNat < 65536 := s.pc.isLt

theorem State.dt_lt (s : State) : s.dt.toNat < 256 := s.dt.isLt

theorem State.st_lt (s : State) : s.st.toNat < 256 := s.st.isLt

theorem State.sp_le (s : State) : s.sp.val ≤ 16 := Nat.le_of_lt_succ s.sp.isLt

/-- A register read after a register write. -/
theorem State.getV_setV (s : State) (x y : Reg) (b : Byte) :
    (s.setV x b).getV y = if x = y then b else s.getV y := by
  simp only [State.getV, State.setV, Vector.getElem_set, BitVec.toNat_inj]

@[simp] theorem State.getV_setV_same (s : State) (x : Reg) (b : Byte) : (s.setV x b).getV x = b := by
  simp [State.getV_setV]

theorem State.getV_setV_other (s : State) {x y : Reg} (b : Byte) (h : x ≠ y) : (s.setV x b).getV y = s.getV y := by
  simp [State.getV_setV, h]

/-- Reading registers sees the register field alone. -/
theorem State.getV_congr {s t : State} (h : t.v = s.v) (y : Reg) : t.getV y = s.getV y := by
  simp only [State.getV, h]

theorem State.getV_setFlag (s : State) (flag : Bool) (y : Reg) :
    (s.setFlag flag).getV y = if y = 15#4 then flagByte flag else s.getV y := by
  rw [State.setFlag, State.getV_setV]
  simp [flagReg, eq_comm]

/-- Result first, flag last (42_alu.md R71 (d)). -/
theorem State.getV_setResultFlag (s : State) (x y : Reg) (r : Byte) (flag : Bool) :
    (s.setResultFlag x r flag).getV y = if y = 15#4 then flagByte flag else if x = y then r else s.getV y := by
  rw [State.setResultFlag, State.getV_setFlag, State.getV_setV]

theorem flagByte_zero_or_one (b : Bool) : flagByte b = 0 ∨ flagByte b = 1 := by cases b <;> simp [flagByte]

theorem flagByte_eq_one_iff (b : Bool) : flagByte b = 1 ↔ b = true := by cases b <;> decide

/-- Raising a fault in an instruction (60_exceptions.md R112). -/
theorem raise_eq (s : State) (f : Fault) : raise s f = .next { s with pc := s.pc - 2#16, run := .halted f } := rfl

theorem State.instrAddr_eq (s : State) : s.instrAddr = s.pc - 2#16 := rfl

theorem State.dataFits_iff (s : State) (n : Nat) : s.dataFits n = true ↔ n = 0 ∨ s.i.toNat + (n - 1) < 4096 := by
  simp only [State.dataFits, Bool.or_eq_true, beq_iff_eq, decide_eq_true_eq]
  simp [State.effAddr]

/-- Everything a bounds-checked instruction can do. -/
theorem withData_fits {s : State} {n : Nat} (rest : Result) (h : s.dataFits n = true) : withData s n rest = rest := by
  simp [withData, h]

theorem withData_faults {s : State} {n : Nat} (rest : Result) (h : s.dataFits n = false) :
    withData s n rest = raise s (.dataAddressOutOfBounds s.firstBadAddr s.instrAddr) := by
  simp [withData, h]

theorem State.firstBadAddr_toNat (s : State) : s.firstBadAddr.toNat = max s.i.toNat 4096 := by
  unfold State.firstBadAddr
  simp only [Config.memSize]
  split
  · next h => simp; omega
  · next h => omega

theorem keyOperand_of_lt {b : Byte} (h : b.toNat < 16) : keyOperand b = some (b.setWidth 4) := by simp [keyOperand, h]

theorem keyOperand_of_ge {b : Byte} (h : 16 ≤ b.toNat) : keyOperand b = none := by
  simp only [keyOperand, Config.numKeys]
  rw [if_neg (by omega)]

/-- Everything a key skip can do: the rest with its key, or the range fault. -/
theorem withKey_of_lt {s : State} {x : Reg} (rest : Key → Result) (h : (s.getV x).toNat < 16) :
    withKey s x rest = rest ((s.getV x).setWidth 4) := by
  simp [withKey, keyOperand_of_lt h]

theorem withKey_of_ge {s : State} {x : Reg} (rest : Key → Result) (h : 16 ≤ (s.getV x).toNat) :
    withKey s x rest = raise s (.keyIndexOutOfRange (s.getV x) s.instrAddr) := by
  simp [withKey, keyOperand_of_ge h]

theorem State.getKey_setKeyBit (s : State) (k j : Key) (b : Bool) :
    (s.setKeyBit k b).getKey j = if k = j then b else s.getKey j := by
  simp only [State.getKey, State.setKeyBit, Vector.getElem_set, BitVec.toNat_inj]

theorem State.length_regsUpTo (s : State) (x : Reg) : (s.regsUpTo x).length = x.toNat + 1 := by
  have := x.isLt
  simp only [State.regsUpTo, List.length_take, Vector.length_toList, Config.numRegs]
  omega

theorem State.getElem_regsUpTo (s : State) (x : Reg) (k : Nat) (h : k < (s.regsUpTo x).length) :
    (s.regsUpTo x)[k] = s.v[k]'(by rw [State.length_regsUpTo] at h; have := x.isLt; show k < 16; omega) := by
  simp [State.regsUpTo]

theorem State.getElem_loadedRegs (s : State) (x : Reg) (k : Nat) (h : k < 16) :
    (s.loadedRegs x)[k] = if k ≤ x.toNat then s.mem.read (s.i.toNat + k) else s.v[k] := by
  simp [State.loadedRegs, State.effAddr]

/-- A pixel read after a pixel write. -/
theorem Display.get_set (d : Display) (c c' : Fin 64) (r r' : Fin 32) (b : Bool) :
    (d.set c r b).get c' r' = if c = c' ∧ r = r' then b else d.get c' r' := by
  simp only [Display.get, Display.set, Fin.getElem_fin, Vector.getElem_set, Fin.val_inj]
  by_cases hc : c = c'
  · subst hc; simp [Vector.getElem_set, Fin.val_inj]
  · simp [hc]

@[simp] theorem Display.get_blank (c : Fin 64) (r : Fin 32) : Display.blank.get c r = false := by
  simp [Display.get, Display.blank]

/-- One position of the blit: the pixel there is XORed, every other one stays (44_display.md R92). -/
theorem blitPixel_get (c c' : Fin 64) (r r' : Fin 32) (bit : Bool) (acc : Display × Bool) :
    (blitPixel c r bit acc).1.get c' r' =
      if c = c' ∧ r = r' then (acc.1.get c r ^^ bit) else acc.1.get c' r' := by
  simp [blitPixel, Display.get_set]

/-- One position of the blit: a collision is a filled pixel under a set sprite bit (44_display.md R93). -/
theorem blitPixel_collided (c : Fin 64) (r : Fin 32) (bit : Bool) (acc : Display × Bool) :
    (blitPixel c r bit acc).2 = (acc.2 || (acc.1.get c r && bit)) := by
  simp only [blitPixel]
  cases acc.1.get c r <;> cases bit <;> simp

/-- An event is presented: it has its effect, or nothing changes. -/
theorem present_of_enabled {e : Event} {s : State} (h : enabled e s = true) : present e s = effect e s := by
  simp [present, h]

theorem present_of_disabled {e : Event} {s : State} (h : enabled e s = false) : present e s = .next s := by
  simp [present, h]

end Sys2Proof.Machine
end

