-- ==== Sys2Proof/Laws/PerInstr.lean ====
section
/-! SUPPORT. Statements made for every instruction, one lemma per constructor. -/

namespace Sys2Proof.Laws.HasRow

/-- Some row of 30_encoding.md R46 matches the instruction's encoding and assembles the same instruction from it: no
operand bit is lost and every constant digit is the row's. (That the FIRST matching row is this one is the decoder's
statement, not this one.) -/
def Statement (i : Instr) : Prop := ∃ r ∈ opcodeMap, rowMatches r (encode i) = true ∧ r.make (encode i) = i

theorem clear : Statement .clear :=
  ⟨opcodeMap[0], List.getElem_mem _, by decide⟩

theorem ret : Statement .ret :=
  ⟨opcodeMap[1], List.getElem_mem _, by decide⟩

theorem sys (nnn : Addr) : Statement (.sys nnn) :=
  ⟨opcodeMap[2], List.getElem_mem _, by simp [opcodeMap, rowMatches, digitAccepts, encode]⟩

theorem jump (nnn : Addr) : Statement (.jump nnn) :=
  ⟨opcodeMap[3], List.getElem_mem _, by simp [opcodeMap, rowMatches, digitAccepts, encode]⟩

theorem call (nnn : Addr) : Statement (.call nnn) :=
  ⟨opcodeMap[4], List.getElem_mem _, by simp [opcodeMap, rowMatches, digitAccepts, encode]⟩

theorem skipEq (x : Reg) (kk : Byte) : Statement (.skipEq x kk) :=
  ⟨opcodeMap[5], List.getElem_mem _, by simp [opcodeMap, rowMatches, digitAccepts, encode]⟩

theorem skipNeq (x : Reg) (kk : Byte) : Statement (.skipNeq x kk) :=
  ⟨opcodeMap[6], List.getElem_mem _, by simp [opcodeMap, rowMatches, digitAccepts, encode]⟩

theorem skipEqReg (x y : Reg) : Statement (.skipEqReg x y) :=
  ⟨opcodeMap[7], List.getElem_mem _, by simp [opcodeMap, rowMatches, digitAccepts, encode]⟩

theorem loadImm (x : Reg) (kk : Byte) : Statement (.loadImm x kk) :=
  ⟨opcodeMap[8], List.getElem_mem _, by simp [opcodeMap, rowMatches, digitAccepts, encode]⟩

theorem addImm (x : Reg) (kk : Byte) : Statement (.addImm x kk) :=
  ⟨opcodeMap[9], List.getElem_mem _, by simp [opcodeMap, rowMatches, digitAccepts, encode]⟩

theorem loadReg (x y : Reg) : Statement (.loadReg x y) :=
  ⟨opcodeMap[10], List.getElem_mem _, by simp [opcodeMap, rowMatches, digitAccepts, encode]⟩

theorem orReg (x y : Reg) : Statement (.orReg x y) :=
  ⟨opcodeMap[11], List.getElem_mem _, by simp [opcodeMap, rowMatches, digitAccepts, encode]⟩

theorem andReg (x y : Reg) : Statement (.andReg x y) :=
  ⟨opcodeMap[12], List.getElem_mem _, by simp [opcodeMap, rowMatches, digitAccepts, encode]⟩

theorem xorReg (x y : Reg) : Statement (.xorReg x y) :=
  ⟨opcodeMap[13], List.getElem_mem _, by simp [opcodeMap, rowMatches, digitAccepts, encode]⟩

theorem addReg (x y : Reg) : Statement (.addReg x y) :=
  ⟨opcodeMap[14], List.getElem_mem _, by simp [opcodeMap, rowMatches, digitAccepts, encode]⟩

theorem subReg (x y : Reg) : Statement (.subReg x y) :=
  ⟨opcodeMap[15], List.getElem_mem _, by simp [opcodeMap, rowMatches, digitAccepts, encode]⟩

theorem shiftRight (x : Reg) : Statement (.shiftRight x) :=
  ⟨opcodeMap[16], List.getElem_mem _, by simp [opcodeMap, rowMatches, digitAccepts, encode]⟩

theorem subnReg (x y : Reg) : Statement (.subnReg x y) :=
  ⟨opcodeMap[17], List.getElem_mem _, by simp [opcodeMap, rowMatches, digitAccepts, encode]⟩

theorem shiftLeft (x : Reg) : Statement (.shiftLeft x) :=
  ⟨opcodeMap[18], List.getElem_mem _, by simp [opcodeMap, rowMatches, digitAccepts, encode]⟩

theorem skipNeqReg (x y : Reg) : Statement (.skipNeqReg x y) :=
  ⟨opcodeMap[19], List.getElem_mem _, by simp [opcodeMap, rowMatches, digitAccepts, encode]⟩

theorem loadIndex (nnn : Addr) : Statement (.loadIndex nnn) :=
  ⟨opcodeMap[20], List.getElem_mem _, by simp [opcodeMap, rowMatches, digitAccepts, encode]⟩

theorem jumpOffset (nnn : Addr) : Statement (.jumpOffset nnn) :=
  ⟨opcodeMap[21], List.getElem_mem _, by simp [opcodeMap, rowMatches, digitAccepts, encode]⟩

theorem random (x : Reg) (kk : Byte) : Statement (.random x kk) :=
  ⟨opcodeMap[22], List.getElem_mem _, by simp [opcodeMap, rowMatches, digitAccepts, encode]⟩

theorem draw (x y : Reg) (n : Nibble) : Statement (.draw x y n) :=
  ⟨opcodeMap[23], List.getElem_mem _, by simp [opcodeMap, rowMatches, digitAccepts, encode]⟩

theorem skipKeyPressed (x : Reg) : Statement (.skipKeyPressed x) :=
  ⟨opcodeMap[24], List.getElem_mem _, by simp [opcodeMap, rowMatches, digitAccepts, encode, encodeX_eq_encodeXY]⟩

theorem skipKeyNotPressed (x : Reg) : Statement (.skipKeyNotPressed x) :=
  ⟨opcodeMap[25], List.getElem_mem _, by simp [opcodeMap, rowMatches, digitAccepts, encode, encodeX_eq_encodeXY]⟩

theorem storeDelayTimer (x : Reg) : Statement (.storeDelayTimer x) :=
  ⟨opcodeMap[26], List.getElem_mem _, by simp [opcodeMap, rowMatches, digitAccepts, encode, encodeX_eq_encodeXY]⟩

theorem waitKey (x : Reg) : Statement (.waitKey x) :=
  ⟨opcodeMap[27], List.getElem_mem _, by simp [opcodeMap, rowMatches, digitAccepts, encode, encodeX_eq_encodeXY]⟩

theorem setDelayTimer (x : Reg) : Statement (.setDelayTimer x) :=
  ⟨opcodeMap[28], List.getElem_mem _, by simp [opcodeMap, rowMatches, digitAccepts, encode, encodeX_eq_encodeXY]⟩

theorem setSoundTimer (x : Reg) : Statement (.setSoundTimer x) :=
  ⟨opcodeMap[29], List.getElem_mem _, by simp [opcodeMap, rowMatches, digitAccepts, encode, encodeX_eq_encodeXY]⟩

theorem addIndex (x : Reg) : Statement (.addIndex x) :=
  ⟨opcodeMap[30], List.getElem_mem _, by simp [opcodeMap, rowMatches, digitAccepts, encode, encodeX_eq_encodeXY]⟩

theorem loadFontAddr (x : Reg) : Statement (.loadFontAddr x) :=
  ⟨opcodeMap[31], List.getElem_mem _, by simp [opcodeMap, rowMatches, digitAccepts, encode, encodeX_eq_encodeXY]⟩

theorem storeBcd (x : Reg) : Statement (.storeBcd x) :=
  ⟨opcodeMap[32], List.getElem_mem _, by simp [opcodeMap, rowMatches, digitAccepts, encode, encodeX_eq_encodeXY]⟩

theorem storeRegs (x : Reg) : Statement (.storeRegs x) :=
  ⟨opcodeMap[33], List.getElem_mem _, by simp [opcodeMap, rowMatches, digitAccepts, encode, encodeX_eq_encodeXY]⟩

theorem loadRegs (x : Reg) : Statement (.loadRegs x) :=
  ⟨opcodeMap[34], List.getElem_mem _, by simp [opcodeMap, rowMatches, digitAccepts, encode, encodeX_eq_encodeXY]⟩

end Sys2Proof.Laws.HasRow
end

