-- ==== Sys2Proof/Tests/Slice0.lean ====
section
/-! SUPPORT. Tests on fixed values, expected results from spec/95_test_vectors.md and the rules' examples, and for every
statement with hypotheses a witness that meets them. -/

namespace Sys2Proof.Tests

open Sys2Proof Sys2Proof.Machine

/-- The result is a next state with this property. -/
def next (r : Result) (p : State → Bool) : Bool :=
  match r with
  | .next s => p s
  | .fault _ => false
  | .refused _ => false

/-- One step of a state with a word placed at its `pc`. -/
def run (s : State) (w : Nat) : Result := step (s.withFetchWord 16 w)

/-- The reset state with the registers 1 and 2 set. -/
def regs (a b : Byte) : State := (State.reset.setV 1 a).setV 2 b

/-- The reset state with `I` and bytes from `I` on. -/
def bytesAt (i : Word) (bytes : List Byte) : State :=
  { State.reset with i := i, mem := State.reset.mem.writeBytes i.toNat bytes }

/-- The reset state after a press of key 5. -/
def pressed5 : State := keyEvent State.reset 5 true

/-! ### Well-formedness: the two ill-formed terms -/

theorem test_sys_0E0_ill_formed : (Instr.sys 0x0E0).wellFormed = false := by decide
theorem test_sys_0EE_ill_formed : (Instr.sys 0x0EE).wellFormed = false := by decide
theorem test_sys_0E1_well_formed : (Instr.sys 0x0E1).wellFormed = true := by decide

/-! ### Decoding: a word written out for every constructor (95_test_vectors.md 2.1) -/

theorem test_decode_flow :
    decodeWord 0x00EE = some .ret ∧ decodeWord 0x0000 = some (.sys 0x000) ∧ decodeWord 0x00E1 = some (.sys 0x0E1) ∧
    decodeWord 0x0FFF = some (.sys 0xFFF) ∧ decodeWord 0x1200 = some (.jump 0x200) ∧
    decodeWord 0x2ABC = some (.call 0xABC) ∧ decodeWord 0x3A7F = some (.skipEq 0xA 0x7F) ∧
    decodeWord 0x4B00 = some (.skipNeq 0xB 0x00) ∧ decodeWord 0x5120 = some (.skipEqReg 1 2) ∧
    decodeWord 0x9120 = some (.skipNeqReg 1 2) ∧ decodeWord 0xB300 = some (.jumpOffset 0x300) := by decide

theorem test_decode_alu :
    decodeWord 0x6C12 = some (.loadImm 0xC 0x12) ∧ decodeWord 0x7DFF = some (.addImm 0xD 0xFF) ∧
    decodeWord 0x8AB0 = some (.loadReg 0xA 0xB) ∧ decodeWord 0x8AB1 = some (.orReg 0xA 0xB) ∧
    decodeWord 0x8AB2 = some (.andReg 0xA 0xB) ∧ decodeWord 0x8AB3 = some (.xorReg 0xA 0xB) ∧
    decodeWord 0x8AB4 = some (.addReg 0xA 0xB) ∧ decodeWord 0x8AB5 = some (.subReg 0xA 0xB) ∧
    decodeWord 0x8AB6 = some (.shiftRight 0xA) ∧ decodeWord 0x8AB7 = some (.subnReg 0xA 0xB) ∧
    decodeWord 0x8ABE = some (.shiftLeft 0xA) ∧ decodeWord 0x8A06 = some (.shiftRight 0xA) ∧
    decodeWord 0x8AF6 = some (.shiftRight 0xA) ∧ decodeWord 0xC30F = some (.random 3 0x0F) := by decide

theorem test_decode_index_display :
    decodeWord 0xA2F0 = some (.loadIndex 0x2F0) ∧ decodeWord 0xF41E = some (.addIndex 4) ∧
    decodeWord 0xF429 = some (.loadFontAddr 4) ∧ decodeWord 0xF433 = some (.storeBcd 4) ∧
    decodeWord 0xF455 = some (.storeRegs 4) ∧ decodeWord 0xF465 = some (.loadRegs 4) ∧
    decodeWord 0x00E0 = some .clear ∧ decodeWord 0xD125 = some (.draw 1 2 5) ∧
    decodeWord 0xD120 = some (.draw 1 2 0) := by decide

theorem test_decode_keys_timers :
    decodeWord 0xE29E = some (.skipKeyPressed 2) ∧ decodeWord 0xE2A1 = some (.skipKeyNotPressed 2) ∧
    decodeWord 0xF407 = some (.storeDelayTimer 4) ∧ decodeWord 0xF40A = some (.waitKey 4) ∧
    decodeWord 0xF415 = some (.setDelayTimer 4) ∧ decodeWord 0xF418 = some (.setSoundTimer 4) := by decide

theorem test_decode_unsupported_skips_alu :
    decodeWord 0x5121 = none ∧ decodeWord 0x912F = none ∧ decodeWord 0x8AB8 = none ∧ decodeWord 0x8AB9 = none ∧
    decodeWord 0x8ABA = none ∧ decodeWord 0x8ABB = none ∧ decodeWord 0x8ABC = none ∧ decodeWord 0x8ABD = none ∧
    decodeWord 0x8ABF = none := by decide

theorem test_decode_unsupported_keys_timers :
    decodeWord 0xE29F = none ∧ decodeWord 0xE200 = none ∧ decodeWord 0xE2A0 = none ∧ decodeWord 0xF400 = none ∧
    decodeWord 0xF408 = none ∧ decodeWord 0xF40B = none ∧ decodeWord 0xF41F = none ∧ decodeWord 0xF475 = none ∧
    decodeWord 0xF4FF = none := by decide

theorem test_decode_bytes_high_first : decode [0x12, 0x00] = .instr (.jump 0x200) := by decide
theorem test_decode_one_byte_truncated : decode [0x12] = .truncated := by decide
theorem test_decode_table_word : decodeTableWord 16 0xD125 = some (.draw 1 2 5) := by decide
theorem test_encode_draw : encode (.draw 1 2 5) = 0xD125 := by decide
theorem test_encode_shift_clears_y : encode (.shiftLeft 0xA) = 0x8A0E := by decide

/-! ### Control flow (95_test_vectors.md 2.2) -/

theorem test_sys : next (run State.reset 0x0123) (fun t => t.pc == 0x202 && t.sp == 0) = true := by decide
theorem test_return :
    next (run { State.reset with sp := 1, stack := State.reset.stack.set 0 0x206 } 0x00EE)
      (fun t => t.pc == 0x206 && t.sp == 0) = true := by decide
theorem test_return_underflow :
    next (run State.reset 0x00EE) (fun t => t.run == .halted (.callStackUnderflow 0x200) && t.pc == 0x200) = true := by
  decide
theorem test_jump_odd : next (run State.reset 0x1201) (fun t => t.pc == 0x201) = true := by decide
theorem test_call_last :
    next (run { State.reset with sp := 15 } 0x2300)
      (fun t => t.pc == 0x300 && t.sp == 16 && t.stack[15] == 0x202) = true := by decide
theorem test_call_overflow :
    next (run { State.reset with sp := 16 } 0x2300)
      (fun t => t.run == .halted (.callStackOverflow 0x200) && t.pc == 0x200 && t.sp == 16) = true := by decide
theorem test_skipEq : next (run (State.reset.setV 3 0x2A) 0x332A) (fun t => t.pc == 0x204) = true := by decide
theorem test_skipEq_not : next (run (State.reset.setV 3 0x2B) 0x332A) (fun t => t.pc == 0x202) = true := by decide
theorem test_skipNeq : next (run (State.reset.setV 3 0x2B) 0x432A) (fun t => t.pc == 0x204) = true := by decide
theorem test_skipEqReg : next (run (regs 7 8) 0x5120) (fun t => t.pc == 0x202) = true := by decide
theorem test_skipNeqReg : next (run (regs 7 8) 0x9120) (fun t => t.pc == 0x204) = true := by decide
theorem test_jumpOffset : next (run (State.reset.setV 0 0xFF) 0xBFFF) (fun t => t.pc == 0x10FE) = true := by decide
theorem test_skip_at_the_top :
    next (run ({ State.reset with pc := 0xFFE }.setV 0 0x2A) 0x302A) (fun t => t.pc == 0x1002) = true := by decide

/-! ### ALU (95_test_vectors.md 2.3) -/

theorem test_loadImm_vf : next (run State.reset 0x6FAB) (fun t => t.vf == 0xAB) = true := by decide
theorem test_addImm_no_carry : next (run (regs 0xFE 0) 0x7105) (fun t => t.getV 1 == 3 && t.vf == 0) = true := by decide
theorem test_loadReg : next (run (regs 0 0x33) 0x8120) (fun t => t.getV 1 == 0x33) = true := by decide
theorem test_or_keeps_vf :
    next (run ((regs 0xF0 0x0F).setV 15 1) 0x8121) (fun t => t.getV 1 == 0xFF && t.vf == 1) = true := by decide
theorem test_and : next (run (regs 0xF3 0x3F) 0x8122) (fun t => t.getV 1 == 0x33) = true := by decide
theorem test_xor : next (run (regs 0xFF 0x0F) 0x8123) (fun t => t.getV 1 == 0xF0) = true := by decide
theorem test_addReg : next (run (regs 0xC8 0x64) 0x8124) (fun t => t.getV 1 == 0x2C && t.vf == 1) = true := by decide
theorem test_addReg_into_vf : next (run ((regs 1 0).setV 15 0xFF) 0x8F14) (fun t => t.vf == 1) = true := by decide
theorem test_subReg : next (run (regs 5 7) 0x8125) (fun t => t.getV 1 == 0xFE && t.vf == 0) = true := by decide
theorem test_subReg_equal : next (run (regs 7 7) 0x8125) (fun t => t.getV 1 == 0 && t.vf == 1) = true := by decide
theorem test_shiftRight :
    next (run (regs 4 0xFF) 0x8126) (fun t => t.getV 1 == 2 && t.getV 2 == 0xFF && t.vf == 0) = true := by decide
theorem test_shiftRight_vf : next (run (State.reset.setV 15 3) 0x8F06) (fun t => t.vf == 1) = true := by decide
theorem test_subnReg : next (run (regs 7 5) 0x8127) (fun t => t.getV 1 == 0xFE && t.vf == 0) = true := by decide
theorem test_shiftLeft : next (run (regs 0x81 0) 0x812E) (fun t => t.getV 1 == 2 && t.vf == 1) = true := by decide
theorem test_shiftLeft_vf : next (run (State.reset.setV 15 0x81) 0x8F0E) (fun t => t.vf == 1) = true := by decide

/-- `Cx00` gives 0 whatever byte is drawn (42_alu.md R83). -/
theorem test_random_masked : next (exec (.random 3 0) State.reset) (fun t => t.draws == 1) = true := by decide

/-- A draw of `0xA7` masked by `0x0F` gives 7 (42_alu.md R83), for whichever step draws it. -/
theorem test_random_A7 (s : State) (h : Config.randomByte s.draws = 0xA7) :
    next (exec (.random 3 0x0F) s) (fun t => t.getV 3 == 0x07) = true := by
  simp [exec, execRandom, next, h, State.getV, State.setV]

/-! ### Index and memory (95_test_vectors.md 2.4) -/

theorem test_loadIndex : next (run State.reset 0xA2F0) (fun t => t.i == 0x2F0) = true := by decide
theorem test_addIndex_wraps :
    next (run { regs 0 1 with i := 0xFFFF } 0xF21E) (fun t => t.i == 0) = true := by decide
theorem test_addIndex_past_memory :
    next (run { regs 0 1 with i := 0xFFF } 0xF21E) (fun t => t.i == 0x1000 && t.vf == 0) = true := by decide
theorem test_loadFontAddr : next (run (State.reset.setV 0 0xFF) 0xF029) (fun t => t.i == 0x4FB) = true := by decide
theorem test_storeBcd :
    next (run { State.reset.setV 3 157 with i := 0x300 } 0xF333)
      (fun t => t.mem.readBytes 0x300 3 == [1, 5, 7] && t.i == 0x300) = true := by decide
theorem test_storeBcd_fault :
    next (run { State.reset with i := 0xFFE } 0xF333)
      (fun t => t.run == .halted (.dataAddressOutOfBounds 0x1000 0x200) && t.mem.read 0xFFE == 0) = true := by decide
theorem test_storeRegs :
    next (run { (regs 0x22 0x33).setV 0 0x11 with i := 0x400 } 0xF255)
      (fun t => t.mem.readBytes 0x400 4 == [0x11, 0x22, 0x33, 0]) = true := by decide
theorem test_storeRegs_top :
    next (run { State.reset.setV 15 9 with i := 0xFF0 } 0xFF55) (fun t => t.mem.read 0xFFF == 9) = true := by decide
theorem test_loadRegs :
    next (run ((bytesAt 0x300 [1, 5, 7]).setV 3 0x99) 0xF265)
      (fun t => t.getV 0 == 1 && t.getV 2 == 7 && t.getV 3 == 0x99 && t.i == 0x300) = true := by decide
theorem test_loadRegs_fault :
    next (run { State.reset with i := 0xFF1 } 0xFF65)
      (fun t => t.run == .halted (.dataAddressOutOfBounds 0x1000 0x200) && t.pc == 0x200) = true := by decide

/-! ### Display (95_test_vectors.md 2.5) -/

theorem test_clear :
    next (run { State.reset.setV 15 1 with px := Display.blank.set 3 7 true } 0x00E0)
      (fun t => !t.px.get 3 7 && t.vf == 1) = true := by decide
theorem test_draw_wraps :
    next (run ((bytesAt 0x300 [0xFF, 0x81]).setV 0 60 |>.setV 1 31) 0xD012)
      (fun t => t.px.get 60 31 && t.px.get 3 31 && !t.px.get 4 31 && t.px.get 60 0 && t.px.get 3 0 && !t.px.get 61 0 &&
        t.vf == 0) = true := by decide
theorem test_draw_collides :
    next (run { (bytesAt 0x300 [0xFF]).setV 1 10 |>.setV 2 5 with px := Display.blank.set 12 5 true } 0xD121)
      (fun t => !t.px.get 12 5 && t.px.get 10 5 && t.vf == 1) = true := by decide

/-! ### Keypad and timers (95_test_vectors.md 2.6) -/

theorem test_skipKeyPressed : next (run (pressed5.setV 2 5) 0xE29E) (fun t => t.pc == 0x204) = true := by decide
theorem test_skipKeyPressed_range :
    next (run (State.reset.setV 2 0x10) 0xE29E) (fun t => t.run == .halted (.keyIndexOutOfRange 0x10 0x200)) = true := by
  decide
theorem test_skipKeyNotPressed : next (run (pressed5.setV 2 5) 0xE2A1) (fun t => t.pc == 0x202) = true := by decide
theorem test_waitKey :
    next (run pressed5 0xF30A) (fun t => t.run == .waitKey 3 && t.lastKey == none && t.pc == 0x202) = true := by decide
theorem test_storeDelayTimer :
    next (run { State.reset with dt := 0x3C } 0xF407) (fun t => t.getV 4 == 0x3C) = true := by decide
theorem test_setDelayTimer : next (run (State.reset.setV 3 5) 0xF315) (fun t => t.dt == 5) = true := by decide
theorem test_setSoundTimer : next (run (State.reset.setV 3 0x1E) 0xF318) (fun t => t.st == 30) = true := by decide

/-! ### Events (95_test_vectors.md 2.7, 2.8, program P5) -/

theorem test_tick :
    next (present .tick { State.reset with dt := 5, st := 0 }) (fun t => t.dt == 4 && t.st == 0) = true := by decide
theorem test_setKey_already_down :
    next (present (.setKey 5 true) { pressed5 with lastKey := none }) (fun t => t.lastKey == none) = true := by decide
theorem test_wake :
    next (present .wake { pressed5 with run := .waitKey 3 }) (fun t => t.getV 3 == 5 && t.run == .running) = true := by
  decide
theorem test_wake_last_writer :
    next (present .wake (keyEvent { pressed5 with run := .waitKey 3 } 7 true)) (fun t => t.getV 3 == 7) = true := by
  decide
theorem test_fetch_fault :
    next (step { State.reset with pc := 0xFFF })
      (fun t => t.run == .halted (.programCounterOutOfBounds 0xFFF) && t.pc == 0xFFF) = true := by decide
theorem test_odd_fetch : next (run { State.reset with pc := 0x201 } 0x6A55) (fun t => t.getV 10 == 0x55 && t.pc == 0x203) = true := by
  decide
theorem test_unsupported :
    next (run State.reset 0x5121) (fun t => t.run == .halted (.unsupportedOpcode 0x5121 0x200) && t.pc == 0x200) = true := by
  decide
theorem test_loadRom :
    next (step { State.reset with schedule := [.loadRom [0x12, 0x00]] })
      (fun t => t.fetchWord == 0x1200 && t.loadedOrStarted && t.run == .running) = true := by decide
theorem test_reset_leaves_halted :
    next (present .reset { State.reset with run := .halted (.callStackUnderflow 0x200) }) (fun t => t.run == .running) =
      true := by decide

/-! ### Witnesses: for every statement with hypotheses, values that meet them, at the boundaries of each clause -/

/-- The reset state at one end of the stack. -/
def atSp (n : Fin 17) : State := { State.reset with sp := n }

/-- The reset state with `I` set. -/
def atI (i : Word) : State := { State.reset with i := i }

/-- The reset state waiting for a key into register 3. -/
def waiting : State := { State.reset with run := .waitKey 3 }

/-- The reset state halted. -/
def halted : State := { State.reset with run := .halted (.callStackUnderflow 0x200) }

theorem witness_EncodeAndDecodeAreInverse :
    (Instr.draw 15 0 15).wellFormed = true ∧ decodeWord 0x8AF6 = some (.shiftRight 0xA) := by decide

theorem witness_ReturnPopsOrUnderflows :
    0 < (atSp 1).sp.val ∧ 0 < (atSp 16).sp.val ∧ (atSp 0).sp.val = 0 := by decide

theorem witness_CallPushesOrOverflows :
    (atSp 0).sp.val < 16 ∧ (atSp 15).sp.val < 16 ∧ (atSp 16).sp.val = 16 := by decide

theorem witness_ReturnUndoesCall : (atSp 15).sp.val < 16 := by decide

theorem witness_FlagWritersLeaveZeroOrOne :
    Instr.addReg 15 2 ∈ [.addReg 15 2, .subReg 15 2, .shiftRight 15, .subnReg 15 2, .shiftLeft 15, .draw 15 2 0] ∧
      ∃ t, exec (.addReg 15 2) State.reset = .next t ∧ t.live :=
  ⟨by simp, _, rfl, rfl⟩

theorem witness_RegistersChangeOnlyAtDestinations :
    (∃ t, exec (.addReg 1 2) State.reset = .next t) ∧ ¬ destination (.addReg 1 2) 2#4 :=
  ⟨⟨_, rfl⟩, by unfold destination; decide⟩

theorem witness_StoreBcdDigitsOrFaults :
    (atI 0xFFD).i.toNat + 2 ≤ 4095 ∧ 4095 < (atI 0xFFE).i.toNat + 2 := by decide

theorem witness_StoreRegsOrFaults :
    (atI 0xFF0).i.toNat + (15#4).toNat ≤ 4095 ∧ 4095 < (atI 0xFF1).i.toNat + (15#4).toNat := by decide

theorem witness_LoadRegsOrFaults :
    (atI 0xFFF).i.toNat + (0#4).toNat ≤ 4095 ∧ 4095 < (atI 0x1000).i.toNat + (0#4).toNat := by decide

theorem witness_LoadRegsUndoesStoreRegs : (atI 0xFF0).i.toNat + (15#4).toNat ≤ 4095 := by decide

theorem witness_DrawXorsWithCollision :
    (0#4 = 0#4 ∨ (atI 0xFFFF).i.toNat + ((0#4).toNat - 1) ≤ 4095) ∧
    (1#4 = 0#4 ∨ (atI 0xFFF).i.toNat + ((1#4).toNat - 1) ≤ 4095) ∧
    (2#4 ≠ 0#4 ∧ 4095 < (atI 0xFFF).i.toNat + ((2#4).toNat - 1)) := by decide

/-- The sprite's top left pixel is covered, the pixel below is not: both clauses on a pixel are met. -/
theorem witness_DrawXorsWithCollision_pixels :
    (bytesAt 0x300 [0x80]).spriteCovers 1 2 1 0 0 ∧ ¬ (bytesAt 0x300 [0x80]).spriteCovers 1 2 1 0 1 := by
  constructor
  · exact ⟨0, 0, by decide, by decide, by decide, by decide, by decide⟩
  · rintro ⟨iy, ix, h, -, -, hr, -⟩
    have h : iy < 1 := h
    obtain rfl : iy = 0 := by omega
    exact absurd hr (by decide)

theorem witness_DrawingTwiceRestores :
    (1#4 ≠ 15#4) ∧ (2#4 ≠ 15#4) ∧ ∃ t, exec (.draw 1 2 1) (bytesAt 0x300 [0x80]) = .next t ∧ t.live ∧
      ∃ u, exec (.draw 1 2 1) t = .next u :=
  ⟨by decide, by decide, _, rfl, rfl, _, rfl⟩

theorem witness_KeySkipsOrFault :
    ((State.reset.setV 2 15).getV 2).toNat < 16 ∧ 15 < ((State.reset.setV 2 16).getV 2).toNat := by decide

theorem witness_WaitKeyTwoHalves :
    (waiting.run = .waitKey 3 ∧ { waiting with lastKey := some 15 }.lastKey = some 15#4) ∧ waiting.lastKey = none ∧
      pressed5.run = .running ∧ pressed5.lastKey = some 5 := by
  decide

theorem witness_SlotHoldsTheLastTransition : State.reset.lastKey = none ∧ qualifies State.reset (15, true) :=
  ⟨rfl, rfl, by decide⟩

theorem witness_StepRunsTheDecodedInstruction :
    State.reset.run = .running ∧ State.reset.pc.toNat + 1 ≤ 4095 ∧
      decode [State.reset.mem.read State.reset.pc.toNat, State.reset.mem.read (State.reset.pc.toNat + 1)] =
        .instr (.sys 0) ∧ State.reset.schedule = [] ∧ { State.reset with schedule := [.step] }.schedule = .step :: [] := by
  decide

theorem witness_FetchAndDecodeFaults :
    State.reset.run = .running ∧ 4095 < { State.reset with pc := 0xFFF }.pc.toNat + 1 ∧
      { State.reset with pc := 0xFFE }.pc.toNat + 1 ≤ 4095 ∧
      (0x5121#16).toNat = ((bytesAt 0x200 [0x51, 0x21]).mem.read 0x200).toNat * 256 +
        ((bytesAt 0x200 [0x51, 0x21]).mem.read 0x201).toNat ∧ decodeWord 0x5121 = none := by decide

theorem witness_StoredRegistersAreFetched : 1 ≤ (1#4).toNat ∧ (atI 0xFFE).i.toNat + (1#4).toNat ≤ 4095 := by decide

theorem witness_live : State.reset.live ∧ waiting.live := ⟨rfl, rfl⟩

theorem witness_SetKeyUpdatesTheKeypad : State.reset.getKey 5 = false ∧ pressed5.getKey 5 = true := by decide

theorem witness_LoadRomCopiesOrFaults :
    State.reset.loadedOrStarted = false ∧ (List.replicate 3584 (0 : Byte)).length ≤ 3584 ∧
      3584 < (List.replicate 3585 (0 : Byte)).length ∧ State.reset.markStarted.loadedOrStarted = true ∧
      ∃ t, present .step State.reset = .next t :=
  ⟨rfl, List.length_replicate.le, List.length_replicate.symm ▸ Nat.lt_succ_self 3584, rfl, _, rfl⟩

theorem witness_HaltedIsLeftByResetAlone :
    halted.run = .halted (.callStackUnderflow 0x200) ∧ Event.tick ≠ .reset := by decide

theorem witness_StepTakesTheScheduledEvent :
    { State.reset with schedule := [.tick] }.schedule = .tick :: [] ∧ waiting.schedule = [] ∧ waiting.run = .waitKey 3 ∧
      { waiting with lastKey := some 9 }.lastKey = some 9#4 ∧ waiting.lastKey = none ∧ halted.schedule = [] ∧
      State.reset.schedule = [] ∧ State.reset.run = .running := by decide

theorem witness_PlacedWordRunsNext : decodeWord 0xD125 = some (.draw 1 2 5) := by decide

theorem witness_FaultsArePrecise :
    { State.reset with pc := 0xFFF }.live ∧ ∃ t, present .step { State.reset with pc := 0xFFF } = .next t ∧
      t.run = .halted (.programCounterOutOfBounds 0xFFF) :=
  ⟨rfl, _, rfl, rfl⟩

theorem witness_exec_answers : ∃ t, exec (.loadImm 1 2) State.reset = .next t := ⟨_, rfl⟩

/-- `SetSoundTimer` and `WaitKey`, the other clause of the two statements about what is never read. -/
theorem witness_never_read_exceptions :
    (∃ t, exec (.setSoundTimer 1) State.reset = .next t) ∧ ∃ t, exec (.waitKey 1) State.reset = .next t :=
  ⟨⟨_, rfl⟩, _, rfl⟩

/-- Two states that differ in a dead entry only. -/
theorem witness_DeadStackEntriesAreNeverRead :
    (∃ t, exec .ret (atSp 1) = .next t) ∧ ∀ k : Fin 16, k.val < (atSp 1).sp.val →
      ((atSp 1).stack.set 1 7)[k] = (atSp 1).stack[k] :=
  ⟨⟨_, rfl⟩, by decide⟩

/-- The invariants' premise, in the reset state, in a waiting one, and with a step from it. -/
theorem witness_invariants :
    State.reset.memOk ∧ State.reset.pcOk ∧ State.reset.waitOk ∧ ∃ t, step State.reset = .next t := by
  refine ⟨Memory.wf_nil, ⟨by decide, fun k hk => absurd hk (Nat.not_lt_zero _)⟩, ?_, _, rfl⟩
  intro x hx
  cases hx

/-- A waiting state that meets its invariant: a `WaitKey V3` at 0x200 has run. -/
theorem witness_waitOk :
    { bytesAt 0x200 [0xF3, 0x0A] with run := .waitKey 3, pc := 0x202, loadedOrStarted := true }.waitOk := by
  intro x hx
  cases hx
  decide

end Sys2Proof.Tests
end

section
/-! PROOF. Every instruction, every event and every step answers the host's outcome `next` (00_scope.md R7, 60_exceptions.md
R112): a fault is a next state with `run` HALTED, an event that is not enabled gives the same state. -/

namespace Sys2Proof.Machine

/-- The result is the host's outcome `next`: neither a fault of the host's nor a refusal. -/
def AnswersNext (r : Result) : Prop := ∃ t, r = .next t

/-- Taking a fault is a next state (60_exceptions.md R112). -/
theorem raise_answersNext (s : State) (f : Fault) : AnswersNext (raise s f) := ⟨_, raise_eq s f⟩

/-- The bounds check (20_memory.md R34) gives the rest or takes a fault, so it answers `next` if the rest does. -/
theorem withData_answersNext {s : State} {n : Nat} {rest : Result} (hrest : AnswersNext rest) :
    AnswersNext (withData s n rest) := by
  cases hfits : s.dataFits n with
  | true => rwa [withData_fits rest hfits]
  | false => rw [withData_faults rest hfits]; exact raise_answersNext ..

/-- The range check of the key skips (45_keypad_timers.md R94, R95): the rest with its key, or a fault. -/
theorem withKey_answersNext {s : State} {x : Reg} {rest : Key → Result} (hrest : ∀ k, AnswersNext (rest k)) :
    AnswersNext (withKey s x rest) := by
  rcases Nat.lt_or_ge (s.getV x).toNat 16 with hlt | hge
  · rw [withKey_of_lt rest hlt]; exact hrest _
  · rw [withKey_of_ge rest hge]; exact raise_answersNext ..

theorem execRet_answersNext (s : State) : AnswersNext (execRet s) := by
  unfold execRet
  split
  · exact ⟨_, rfl⟩
  · exact raise_answersNext ..

theorem execCall_answersNext (nnn : Addr) (s : State) : AnswersNext (execCall nnn s) := by
  unfold execCall
  split
  · exact ⟨_, rfl⟩
  · exact raise_answersNext ..

/-- The instructions that can fault are those of the stack, of the two key skips and of data memory; the meaning of each
other one is a next state as it stands. -/
theorem exec_answersNext (i : Instr) (s : State) : AnswersNext (exec i s) := by
  cases i with
  | ret => exact execRet_answersNext s
  | call nnn => exact execCall_answersNext nnn s
  | skipKeyPressed x | skipKeyNotPressed x => exact withKey_answersNext fun _ => ⟨_, rfl⟩
  | draw x y n => exact withData_answersNext ⟨_, rfl⟩
  | storeBcd x | storeRegs x | loadRegs x => exact withData_answersNext ⟨_, rfl⟩
  | _ => exact ⟨_, rfl⟩

/-- The instruction cycle (40_cycle.md R53): a fetch fault, a decode fault, or the instruction's own answer. -/
theorem cycle_answersNext (s : State) : AnswersNext (cycle s) := by
  unfold cycle
  split
  · split
    · exact exec_answersNext ..
    · exact ⟨_, rfl⟩
  · exact ⟨_, rfl⟩

/-- Of the events of 40_cycle.md R52 only `step` has an effect that is not a next state as it stands. -/
theorem effect_answersNext (e : Event) (s : State) : AnswersNext (effect e s) := by
  cases e with
  | step => exact cycle_answersNext s
  | reset | loadRom bytes | wake | tick | setKey k pressed => exact ⟨_, rfl⟩

theorem present_answersNext (e : Event) (s : State) : AnswersNext (present e s) := by
  cases hen : enabled e s with
  | true => rw [present_of_enabled hen]; exact effect_answersNext e s
  | false => exact ⟨s, present_of_disabled hen⟩

/-- A step presents one event: the schedule's first, or with none left the default one (40_cycle.md R61). -/
theorem step_answersNext (s : State) : AnswersNext (step s) := by
  unfold step move
  split <;> exact present_answersNext ..

end Sys2Proof.Machine

namespace Sys2Proof

/-- Settles O46: no arm of `exec` is refused, and the checks before an arm only take faults, which are next states. -/
theorem everyStepAnswersNext : Obligations.EveryStepAnswersNext :=
  ⟨Machine.exec_answersNext, Machine.step_answersNext⟩

end Sys2Proof
end

section
/-! PROOF. The ways an instruction can end, said once for all 35 (40_cycle.md R57): what every frame statement and every
invariant below is read off. -/

namespace Sys2Proof.Machine

/-- The ways an instruction handed the state `s` can end. A fault is the state before the event, halted (60_exceptions.md
R112); each other way names the instructions that end so and the one piece of the state they write. -/
inductive Ends (s : State) : Instr → State → Prop where
  | fault (i : Instr) (f : Fault) : Ends s i (faulted s f)
  | nothing (nnn : Addr) : Ends s (.sys nnn) s
  | regs {i : Instr} (v : Vector RegVal Config.numRegs)
      (hv : ∀ r : Reg, ¬ destination i r → State.getV { s with v := v } r = s.getV r) : Ends s i { s with v := v }
  | random (x : Reg) (kk b : Byte) : Ends s (.random x kk) ({ s with draws := s.draws + 1 }.setV x b)
  | index {i : Instr} (a : IndexVal)
      (hi : (∃ nnn, i = .loadIndex nnn) ∨ (∃ x, i = .addIndex x) ∨ ∃ x, i = .loadFontAddr x) : Ends s i (s.setI a)
  | jump {i : Instr} {w : PcVal} (hi : writesPc i) (hw : w.toNat ≤ 0x10FE) : Ends s i (s.setPc w)
  | skip {i : Instr} {taken : Bool} (hi : writesPc i) : Ends s i (s.skipIf taken)
  | call (nnn : Addr) (h : s.sp.val < Config.stackDepth) :
      Ends s (.call nnn) ((s.push s.pc h).setPc (addrOperand nnn))
  | ret (h : 0 < s.sp.val) : Ends s .ret ((s.pop h).2.setPc (s.pop h).1)
  | memory {i : Instr} (a : Nat) (bs : List Byte) (hi : (∃ x, i = .storeBcd x) ∨ ∃ x, i = .storeRegs x)
      (hfits : a + bs.length ≤ Config.memSize) : Ends s i { s with mem := s.mem.writeBytes a bs }
  | clear : Ends s .clear { s with px := Display.blank }
  | draw (x y : Reg) (n : Nibble) (d : Display) (flag : Bool) : Ends s (.draw x y n) ({ s with px := d }.setFlag flag)
  | delayTimer (x : Reg) : Ends s (.setDelayTimer x) { s with dt := s.getV x }
  | soundTimer (x : Reg) : Ends s (.setSoundTimer x) { s with st := s.getV x }
  | waitKey (x : Reg) : Ends s (.waitKey x) { s with lastKey := none, run := .waitKey x }

/-- A destination register written. -/
theorem Ends.setV {s : State} {i : Instr} {x : Reg} (b : Byte) (hx : destination i x) : Ends s i (s.setV x b) :=
  .regs _ fun _ hr => s.getV_setV_other b fun hxr => hr (hxr ▸ hx)

/-- A destination register written and then VF as the flag (42_alu.md R71 (d)). -/
theorem Ends.setResultFlag {s : State} {i : Instr} {x : Reg} (b : Byte) (flag : Bool) (hx : destination i x)
    (hflag : destination i 15#4) : Ends s i (s.setResultFlag x b flag) :=
  .regs _ fun r hr => by
    have h15 : r ≠ 15#4 := fun h => hr (h ▸ hflag)
    have hxr : x ≠ r := fun h => hr (h ▸ hx)
    exact (s.getV_setResultFlag x r b flag).trans (by rw [if_neg h15, if_neg hxr])

/-- The registers `V[0] .. V[x]` written (43_index_memory.md R89). -/
theorem Ends.loadedRegs (s : State) (x : Reg) : Ends s (.loadRegs x) { s with v := s.loadedRegs x } :=
  .regs _ fun r hr => (s.getElem_loadedRegs x r.toNat r.isLt).trans (if_neg hr)

/-- A result is a next state that one of the ways gives. -/
def EndsAs (s : State) (i : Instr) (r : Result) : Prop := ∃ t, r = .next t ∧ Ends s i t

theorem raise_endsAs (s : State) (i : Instr) (f : Fault) : EndsAs s i (raise s f) := ⟨_, rfl, .fault i f⟩

/-- The bounds check (20_memory.md R34): the rest where the data fits, else a fault. -/
theorem withData_endsAs {s : State} {i : Instr} {n : Nat} {rest : Result}
    (hrest : s.dataFits n = true → EndsAs s i rest) : EndsAs s i (withData s n rest) := by
  cases hfits : s.dataFits n with
  | true => rw [withData_fits rest hfits]; exact hrest hfits
  | false => rw [withData_faults rest hfits]; exact raise_endsAs ..

/-- The range check of the key skips (45_keypad_timers.md R94, R95): the rest with its key, or a fault. -/
theorem withKey_endsAs {s : State} {i : Instr} {x : Reg} {rest : Key → Result} (hrest : ∀ k, EndsAs s i (rest k)) :
    EndsAs s i (withKey s x rest) := by
  rcases Nat.lt_or_ge (s.getV x).toNat 16 with hlt | hge
  · rw [withKey_of_lt rest hlt]; exact hrest _
  · rw [withKey_of_ge rest hge]; exact raise_endsAs ..

theorem execRet_of_pos {s : State} (h : 0 < s.sp.val) : execRet s = .next ((s.pop h).2.setPc (s.pop h).1) := dif_pos h

theorem execRet_of_empty {s : State} (h : ¬ 0 < s.sp.val) : execRet s = raise s (.callStackUnderflow s.instrAddr) :=
  dif_neg h

theorem execCall_of_lt {s : State} (nnn : Addr) (h : s.sp.val < Config.stackDepth) :
    execCall nnn s = .next ((s.push s.pc h).setPc (addrOperand nnn)) := dif_pos h

theorem execCall_of_full {s : State} (nnn : Addr) (h : ¬ s.sp.val < Config.stackDepth) :
    execCall nnn s = raise s (.callStackOverflow s.instrAddr) := dif_neg h

theorem execRet_endsAs (s : State) : EndsAs s .ret (execRet s) := by
  by_cases h : 0 < s.sp.val
  · rw [execRet_of_pos h]; exact ⟨_, rfl, .ret h⟩
  · rw [execRet_of_empty h]; exact raise_endsAs ..

theorem execCall_endsAs (nnn : Addr) (s : State) : EndsAs s (.call nnn) (execCall nnn s) := by
  by_cases h : s.sp.val < Config.stackDepth
  · rw [execCall_of_lt nnn h]; exact ⟨_, rfl, .call nnn h⟩
  · rw [execCall_of_full nnn h]; exact raise_endsAs ..

theorem addrOperand_toNat (nnn : Addr) : (addrOperand nnn).toNat = nnn.toNat := by
  have := nnn.isLt
  simp only [addrOperand, BitVec.toNat_setWidth]
  omega

theorem byteOperand_toNat (b : RegVal) : (byteOperand b).toNat = b.toNat := by
  have hb : b.toNat < 256 := b.isLt
  simp only [byteOperand, BitVec.toNat_setWidth]
  omega

theorem addrOperand_le (nnn : Addr) : (addrOperand nnn).toNat ≤ 0xFFF := by
  have := nnn.isLt
  rw [addrOperand_toNat]
  omega

/-- The target of `JumpOffset` is at most `0xFFF + 0xFF`: "the largest value any rule can produce is 0x10FE"
(10_state.md R13). -/
theorem jumpOffset_target_le (nnn : Addr) (b : RegVal) : (addrOperand nnn + byteOperand b).toNat ≤ 0x10FE := by
  have hnnn := nnn.isLt
  have hb : b.toNat < 256 := b.isLt
  rw [BitVec.toNat_add, addrOperand_toNat, byteOperand_toNat]
  omega

/-- `count` bytes from `I` lie inside memory (20_memory.md R34). -/
theorem State.effAddr_add_le {s : State} {count : Nat} (hpos : 0 < count) (h : s.dataFits count = true) :
    s.effAddr 0 + count ≤ Config.memSize := by
  rw [State.dataFits_iff] at h
  show s.i.toNat + 0 + count ≤ 4096
  omega

/-- Every instruction ends in one of the ways. -/
theorem exec_endsAs (i : Instr) (s : State) : EndsAs s i (exec i s) := by
  cases i with
  | clear => exact ⟨_, rfl, .clear⟩
  | ret => exact execRet_endsAs s
  | sys nnn => exact ⟨_, rfl, .nothing nnn⟩
  | jump nnn => exact ⟨_, rfl, .jump trivial (Nat.le_trans (addrOperand_le nnn) (by decide))⟩
  | call nnn => exact execCall_endsAs nnn s
  | jumpOffset nnn => exact ⟨_, rfl, .jump trivial (jumpOffset_target_le nnn _)⟩
  | skipEq x kk | skipNeq x kk | skipEqReg x y | skipNeqReg x y => exact ⟨_, rfl, .skip trivial⟩
  | skipKeyPressed x | skipKeyNotPressed x => exact withKey_endsAs fun _ => ⟨_, rfl, .skip trivial⟩
  | loadImm x kk | addImm x kk | loadReg x y | orReg x y | andReg x y | xorReg x y | storeDelayTimer x =>
    exact ⟨_, rfl, .setV (x := x) _ rfl⟩
  | addReg x y | subReg x y | shiftRight x | subnReg x y | shiftLeft x =>
    exact ⟨_, rfl, .setResultFlag (x := x) _ _ (.inl rfl) (.inr rfl)⟩
  | random x kk => exact ⟨_, rfl, .random x kk _⟩
  | loadIndex nnn => exact ⟨_, rfl, .index _ (.inl ⟨_, rfl⟩)⟩
  | addIndex x => exact ⟨_, rfl, .index _ (.inr (.inl ⟨_, rfl⟩))⟩
  | loadFontAddr x => exact ⟨_, rfl, .index _ (.inr (.inr ⟨_, rfl⟩))⟩
  | draw x y n => exact withData_endsAs fun _ => ⟨_, rfl, .draw x y n _ _⟩
  | storeBcd x =>
    exact withData_endsAs fun hfits =>
      ⟨_, rfl, .memory _ _ (.inl ⟨x, rfl⟩) (State.effAddr_add_le (Nat.succ_pos 2) hfits)⟩
  | storeRegs x =>
    refine withData_endsAs fun hfits => ⟨_, rfl, .memory _ _ (.inr ⟨x, rfl⟩) ?_⟩
    rw [State.length_regsUpTo]
    exact State.effAddr_add_le (Nat.succ_pos _) hfits
  | loadRegs x => exact withData_endsAs fun _ => ⟨_, rfl, .loadedRegs s x⟩
  | waitKey x => exact ⟨_, rfl, .waitKey x⟩
  | setDelayTimer x => exact ⟨_, rfl, .delayTimer x⟩
  | setSoundTimer x => exact ⟨_, rfl, .soundTimer x⟩

/-- What is known of the state an instruction ends in. -/
theorem ends_of_exec {i : Instr} {s t : State} (h : exec i s = .next t) : Ends s i t := by
  obtain ⟨u, hu, hends⟩ := exec_endsAs i s
  obtain rfl : t = u := by simpa [h] using hu
  exact hends

end Sys2Proof.Machine
end

section
/-! PROOF. Who writes what, over all instructions (10_state.md R10 to R21). -/

namespace Sys2Proof.Machine

@[simp] theorem State.vf_setFlag (s : State) (flag : Bool) : (s.setFlag flag).vf = flagByte flag :=
  s.getV_setFlag flag 15#4

@[simp] theorem State.vf_setResultFlag (s : State) (x : Reg) (b : Byte) (flag : Bool) :
    (s.setResultFlag x b flag).vf = flagByte flag :=
  s.getV_setResultFlag x 15#4 b flag

/-- A `Draw` that has not halted has written VF from the collision flag (44_display.md R93). -/
theorem draw_vf_of_live {s t : State} {x y : Reg} {n : Nibble} (h : exec (.draw x y n) s = .next t) (hlive : t.live) :
    ∃ collided, t.vf = flagByte collided := by
  simp only [exec, execDraw] at h
  cases hfits : s.dataFits n.toNat with
  | true =>
    rw [withData_fits _ hfits] at h
    cases h
    exact ⟨_, State.vf_setFlag _ _⟩
  | false =>
    rw [withData_faults _ hfits] at h
    cases h
    cases hlive

/-- The six flag writers take VF from a flag. -/
theorem flagWriter_vf {s t : State} {x y : Reg} {n : Nibble} {i : Instr}
    (hi : i ∈ [.addReg x y, .subReg x y, .shiftRight x, .subnReg x y, .shiftLeft x, .draw x y n])
    (h : exec i s = .next t) (hlive : t.live) : ∃ flag, t.vf = flagByte flag := by
  simp only [List.mem_cons, List.not_mem_nil, or_false] at hi
  obtain rfl | rfl | rfl | rfl | rfl | rfl := hi
  case inr.inr.inr.inr.inr => exact draw_vf_of_live h hlive
  all_goals
    cases h
    exact ⟨_, State.vf_setResultFlag ..⟩

/-- A register that is no destination keeps its value, however the instruction ends. -/
theorem Ends.getV_of_not_destination {i : Instr} {s t : State} (h : Ends s i t) {r : Reg} (hr : ¬ destination i r) :
    t.getV r = s.getV r := by
  cases h with
  | regs v hv => exact hv r hr
  | random x kk b => exact State.getV_setV_other _ b fun hx => hr hx.symm
  | draw x y n d flag => exact (State.getV_setFlag ..).trans (if_neg hr)
  | skip => exact State.getV_congr (State.skipIf_v ..) r
  | _ => rfl

end Sys2Proof.Machine

namespace Sys2Proof

open Machine

/-- Settles O20: VF is a flag's byte after each of the six. -/
theorem flagWritersLeaveZeroOrOne : Obligations.FlagWritersLeaveZeroOrOne := by
  intro s t x y n i hi h hlive
  obtain ⟨flag, hvf⟩ := flagWriter_vf hi h hlive
  exact hvf ▸ flagByte_zero_or_one flag

/-- Settles O21: each way an instruction can end writes destination registers alone. -/
theorem registersChangeOnlyAtDestinations : Obligations.RegistersChangeOnlyAtDestinations :=
  fun _ _ _ _ h hr => (ends_of_exec h).getV_of_not_destination hr

/-- Settles O48: each way an instruction can end writes its own piece of state, and names the instructions that end so. -/
theorem stateWrittenOnlyByItsInstructions : Obligations.StateWrittenOnlyByItsInstructions := by
  intro i s t h
  cases ends_of_exec h with
  | fault i f => simp [faulted, Run.isHalted]
  | nothing | regs | clear | draw | random | delayTimer | soundTimer | waitKey => simp
  | index a hi => simp [hi]
  | jump hi => simp [hi]
  | skip hi => simp [hi]
  | call | ret => simp [writesPc]
  | memory a bs hi => simp [hi]

end Sys2Proof
end

section
/-! PROOF. What no instruction reads: the sound timer (10_state.md R16), the last-transition slot (R20) and the dead stack
entries (R14). A change of these three from outside commutes with every instruction that does not handle what it
changes. -/

namespace Sys2Proof.Machine

/-- A change from outside to the stack's entries, the sound timer and the slot. -/
structure Edit where
  stack : Vector PcVal Config.stackDepth → Vector PcVal Config.stackDepth := id
  st : TimerVal → TimerVal := id
  lastKey : Option Key → Option Key := id

/-- The changed state. -/
def State.edit (s : State) (e : Edit) : State :=
  { s with stack := e.stack s.stack, st := e.st s.st, lastKey := e.lastKey s.lastKey }

/-- The edit leaves alone what the instruction itself handles of the three. -/
structure Edit.Avoids (e : Edit) (i : Instr) : Prop where
  stack : (i = .ret ∨ ∃ nnn, i = .call nnn) → e.stack = id
  st : (∃ x, i = .setSoundTimer x) → e.st = id
  lastKey : (∃ x, i = .waitKey x) → e.lastKey = id

/-- A next state changed; the host's other outcomes as they are. -/
def editNext (e : Edit) : Result → Result
  | .next s => .next (s.edit e)
  | .fault r => .fault r
  | .refused r => .refused r

variable {s : State} {e : Edit}

theorem skipIf_edit (taken : Bool) : (s.edit e).skipIf taken = (s.skipIf taken).edit e := by
  cases taken <;> rfl

theorem withData_edit {n : Nat} {rest rest' : Result} (hrest : rest' = editNext e rest) :
    withData (s.edit e) n rest' = editNext e (withData s n rest) := by
  subst hrest
  cases hfits : s.dataFits n with
  | true => rw [withData_fits rest hfits]; exact withData_fits (s := s.edit e) _ hfits
  | false => rw [withData_faults rest hfits]; exact withData_faults (s := s.edit e) _ hfits

theorem withKey_edit {x : Reg} {rest rest' : Key → Result} (hrest : ∀ k, rest' k = editNext e (rest k)) :
    withKey (s.edit e) x rest' = editNext e (withKey s x rest) := by
  rcases Nat.lt_or_ge (s.getV x).toNat 16 with hlt | hge
  · rw [withKey_of_lt rest hlt, ← hrest]; exact withKey_of_lt (s := s.edit e) _ hlt
  · rw [withKey_of_ge rest hge]; exact withKey_of_ge (s := s.edit e) _ hge

theorem execRet_edit (he : e.stack = id) : execRet (s.edit e) = editNext e (execRet s) := by
  obtain ⟨stack, st, lastKey⟩ := e
  obtain rfl : stack = id := he
  by_cases h : 0 < s.sp.val
  · rw [execRet_of_pos h]; exact execRet_of_pos (s := s.edit _) h
  · rw [execRet_of_empty h]; exact execRet_of_empty (s := s.edit _) h

theorem execCall_edit (nnn : Addr) (he : e.stack = id) : execCall nnn (s.edit e) = editNext e (execCall nnn s) := by
  obtain ⟨stack, st, lastKey⟩ := e
  obtain rfl : stack = id := he
  by_cases h : s.sp.val < Config.stackDepth
  · rw [execCall_of_lt nnn h]; exact execCall_of_lt (s := s.edit _) nnn h
  · rw [execCall_of_full nnn h]; exact execCall_of_full (s := s.edit _) nnn h

/-- An instruction run on the changed state ends in its end state changed the same way. -/
theorem exec_edit {i : Instr} (he : e.Avoids i) : exec i (s.edit e) = editNext e (exec i s) := by
  cases i with
  | ret => exact execRet_edit (he.stack (.inl rfl))
  | call nnn => exact execCall_edit nnn (he.stack (.inr ⟨nnn, rfl⟩))
  | setSoundTimer x =>
    have hst := he.st ⟨x, rfl⟩
    obtain ⟨stack, st, lastKey⟩ := e
    obtain rfl : st = id := hst
    rfl
  | waitKey x =>
    have hlastKey := he.lastKey ⟨x, rfl⟩
    obtain ⟨stack, st, lastKey⟩ := e
    obtain rfl : lastKey = id := hlastKey
    rfl
  | skipEq x kk | skipNeq x kk | skipEqReg x y | skipNeqReg x y => exact congrArg _ (skipIf_edit _)
  | skipKeyPressed x | skipKeyNotPressed x => exact withKey_edit fun _ => congrArg _ (skipIf_edit _)
  | draw x y n | storeBcd x | storeRegs x | loadRegs x => exact withData_edit rfl
  | _ => rfl

theorem exec_edit_next {i : Instr} {t : State} (he : e.Avoids i) (h : exec i s = .next t) :
    exec i (s.edit e) = .next (t.edit e) := by
  rw [exec_edit he, h]; rfl

/-- A result that is the next state `t` but for stack entries at or above its `sp`. -/
def NextButDead (t : State) (r : Result) : Prop :=
  ∃ u, r = .next u ∧ u = { t with stack := u.stack } ∧ ∀ k : Fin 16, k.val < t.sp.val → u.stack[k] = t.stack[k]

/-- Only `Return` and `Call` move the stack pointer. -/
theorem sp_eq_of_exec {i : Instr} {t : State} (hret : i ≠ .ret) (hcall : ∀ nnn, i ≠ .call nnn)
    (h : exec i s = .next t) : t.sp = s.sp := by
  obtain ⟨-, -, -, -, -, hsp, -⟩ := stateWrittenOnlyByItsInstructions i s t h
  by_contra hne
  rcases hsp hne with rfl | ⟨nnn, rfl⟩
  · exact hret rfl
  · exact hcall nnn rfl

/-- Only `Call` writes an entry. -/
theorem stack_eq_of_exec {i : Instr} {t : State} (hcall : ∀ nnn, i ≠ .call nnn) (h : exec i s = .next t) :
    t.stack = s.stack := by
  obtain ⟨-, -, -, -, -, -, hstack, -⟩ := stateWrittenOnlyByItsInstructions i s t h
  by_contra hne
  obtain ⟨nnn, rfl⟩ := hstack hne
  exact hcall nnn rfl

/-- `Return` reads the top live entry alone. -/
theorem execRet_nextButDead {t : State} {other : Vector Word 16} (h : execRet s = .next t)
    (hlive : ∀ k : Fin 16, k.val < s.sp.val → other[k] = s.stack[k]) :
    NextButDead t (execRet { s with stack := other }) := by
  by_cases hpos : 0 < s.sp.val
  · rw [execRet_of_pos hpos] at h
    cases h
    have hle := s.sp_le
    have htop := hlive ⟨s.sp.val - 1, by omega⟩ (Nat.sub_lt hpos Nat.one_pos)
    refine ⟨_, execRet_of_pos (s := { s with stack := other }) hpos, ?_, fun k hk => ?_⟩
    · exact congrArg (fun w => { s with pc := w, sp := (s.pop hpos).2.sp, stack := other }) htop
    · exact hlive k (Nat.lt_of_lt_of_le hk (Nat.sub_le ..))
  · rw [execRet_of_empty hpos] at h
    cases h
    exact ⟨_, execRet_of_empty (s := { s with stack := other }) hpos, rfl, hlive⟩

/-- `Call` writes the entry at `sp`, which is then live, and reads none. -/
theorem execCall_nextButDead {nnn : Addr} {t : State} {other : Vector Word 16} (h : execCall nnn s = .next t)
    (hlive : ∀ k : Fin 16, k.val < s.sp.val → other[k] = s.stack[k]) :
    NextButDead t (execCall nnn { s with stack := other }) := by
  by_cases hlt : s.sp.val < Config.stackDepth
  · rw [execCall_of_lt nnn hlt] at h
    cases h
    refine ⟨_, execCall_of_lt (s := { s with stack := other }) nnn hlt, rfl, fun k hk => ?_⟩
    have hk : k.val < s.sp.val + 1 := hk
    show (other.set s.sp.val s.pc hlt)[k.val] = (s.stack.set s.sp.val s.pc hlt)[k.val]
    rw [Vector.getElem_set, Vector.getElem_set]
    split
    · rfl
    · exact hlive k (by omega)
  · rw [execCall_of_full nnn hlt] at h
    cases h
    exact ⟨_, execCall_of_full (s := { s with stack := other }) nnn hlt, rfl, hlive⟩

/-- Every other instruction leaves the whole stack as it is. -/
theorem exec_nextButDead {i : Instr} {t : State} {other : Vector Word 16} (hret : i ≠ .ret)
    (hcall : ∀ nnn, i ≠ .call nnn) (h : exec i s = .next t)
    (hlive : ∀ k : Fin 16, k.val < s.sp.val → other[k] = s.stack[k]) :
    NextButDead t (exec i { s with stack := other }) := by
  have hstack : t.stack = s.stack := stack_eq_of_exec hcall h
  have hsp : t.sp = s.sp := sp_eq_of_exec hret hcall h
  have hedit := exec_edit_next (e := { stack := fun _ => other })
    ⟨fun hi => (hi.elim hret fun ⟨nnn, hnnn⟩ => hcall nnn hnnn).elim, fun _ => rfl, fun _ => rfl⟩ h
  refine ⟨_, hedit, rfl, fun k hk => ?_⟩
  rw [hstack]
  exact hlive k (hsp ▸ hk)

end Sys2Proof.Machine

namespace Sys2Proof

open Machine

/-- Settles O49: a change of the sound timer commutes with every instruction but `SetSoundTimer`, which overwrites it. -/
theorem soundTimerIsNeverRead : Obligations.SoundTimerIsNeverRead := by
  refine fun i s t other h => ⟨fun hi => ?_, ?_⟩
  · exact exec_edit_next (e := { st := fun _ => other })
      ⟨fun _ => rfl, fun ⟨x, hx⟩ => absurd hx (hi x), fun _ => rfl⟩ h
  · rintro ⟨x, rfl⟩
    cases h
    rfl

/-- Settles O50: a change of the slot commutes with every instruction but `WaitKey`, which clears it. -/
theorem slotIsNeverReadByAnInstruction : Obligations.SlotIsNeverReadByAnInstruction := by
  refine fun i s t other h => ⟨fun hi => ?_, ?_⟩
  · exact exec_edit_next (e := { lastKey := fun _ => other })
      ⟨fun _ => rfl, fun _ => rfl, fun ⟨x, hx⟩ => absurd hx (hi x)⟩ h
  · rintro ⟨x, rfl⟩
    cases h
    rfl

/-- Settles O51: `Return` reads a live entry, `Call` reads none, and no other instruction touches the stack. -/
theorem deadStackEntriesAreNeverRead : Obligations.DeadStackEntriesAreNeverRead := by
  intro i s t other h hlive
  cases i with
  | ret => exact execRet_nextButDead h hlive
  | call nnn => exact execCall_nextButDead h hlive
  | _ => exact exec_nextButDead nofun nofun h hlive

end Sys2Proof
end

section
/-! PROOF. The reset state (10_state.md R26, 70_reset_and_hazards.md R123) and the invariants it meets. -/

namespace Sys2Proof.Machine

@[simp] theorem State.reset_getV (r : Reg) : State.reset.getV r = 0#8 := by
  simp [State.getV, State.reset]

@[simp] theorem State.reset_getKey (k : Key) : State.reset.getKey k = false := by
  simp [State.getKey, State.reset]

theorem State.reset_px_get (c : Fin 64) (r : Fin 32) : State.reset.px.get c r = false := Display.get_blank c r

theorem Memory.base_of_font {a : Nat} (h : a < 80) : Memory.base a = Config.font a := by
  simp [Memory.base, h]

theorem Memory.base_of_ge {a : Nat} (h : 80 ≤ a) : Memory.base a = 0#8 := by
  simp [Memory.base, h]

theorem State.reset_memOk : State.reset.memOk := Memory.wf_nil

theorem State.reset_pcOk : State.reset.pcOk := ⟨by decide, fun _ hk => absurd hk (Nat.not_lt_zero _)⟩

theorem waitOk_of_not_waiting {s : State} (h : ∀ x, s.run ≠ .waitKey x) : s.waitOk := fun x hx => absurd hx (h x)

theorem State.reset_waitOk : State.reset.waitOk := waitOk_of_not_waiting fun _ => nofun

end Sys2Proof.Machine

namespace Sys2Proof

open Machine

/-- Settles O41: unlisted memory reads the reset content, every other field is a constant of `State.reset`. -/
theorem resetStateValues : Obligations.ResetStateValues :=
  ⟨State.reset_getV, rfl, rfl, rfl, rfl, rfl, fun _ h => Memory.base_of_font h, fun _ h _ => Memory.base_of_ge h,
    State.reset_px_get, State.reset_getKey, rfl, rfl⟩

/-- Settles O40: reset is always enabled and keeps of its state only the schedule and the draws. -/
theorem resetRecreatesTheMachine : Obligations.ResetRecreatesTheMachine := by
  intro s
  obtain ⟨hv, hi, hpc, hsp, hdt, hst, hfont, hzero, hpx, hkey, hslot, hrun⟩ := resetStateValues
  exact ⟨resetMachine s, rfl, hv, hi, hpc, hsp, hdt, hst, hfont, hzero, hpx, hkey, hslot, hrun, rfl⟩

/-- Settles O55: no byte is listed, no stack entry is live, and nothing waits. -/
theorem resetMeetsTheInvariants : Obligations.ResetMeetsTheInvariants :=
  ⟨State.reset_memOk, State.reset_pcOk, State.reset_waitOk⟩

end Sys2Proof
end

section
/-! PROOF. The invariants kept by every step. What a step can do is said once, in `Kept.step`: an invariant has
to hold at reset and be kept by quiet changes, by an accepted load, and by an instruction. -/

namespace Sys2Proof.Machine

/-- From `s` to `t` memory, `pc` and the stack stay, no wait begins, and the bit of 70_reset_and_hazards.md R124 is not
cleared. -/
structure Quiet (s t : State) : Prop where
  mem : t.mem = s.mem
  pc : t.pc = s.pc
  sp : t.sp = s.sp
  stack : t.stack = s.stack
  bit : s.loadedOrStarted = true → t.loadedOrStarted = true
  wait : ∀ x, t.run = .waitKey x → s.run = .waitKey x

theorem Quiet.refl (s : State) : Quiet s s := ⟨rfl, rfl, rfl, rfl, id, fun _ => id⟩

/-- A fault of the fetch, of the decoder or of a load. -/
theorem quiet_halt (s : State) (f : Fault) : Quiet s (s.markStarted.halt f) :=
  ⟨rfl, rfl, rfl, rfl, fun _ => rfl, fun _ => nofun⟩

theorem quiet_resetMachine (s : State) : Quiet State.reset (resetMachine s) :=
  ⟨rfl, rfl, rfl, rfl, id, fun _ => id⟩

theorem quiet_wakeUp (s : State) : Quiet s (wakeUp s) := by
  unfold wakeUp
  split
  · exact ⟨rfl, rfl, rfl, rfl, id, fun _ => nofun⟩
  · exact .refl s

theorem quiet_tickTimers (s : State) : Quiet s (tickTimers s) := ⟨rfl, rfl, rfl, rfl, id, fun _ => id⟩

theorem quiet_keyEvent (s : State) (k : Key) (pressed : Bool) : Quiet s (keyEvent s k pressed) := by
  unfold keyEvent
  split
  · split
    · exact .refl s
    · exact ⟨rfl, rfl, rfl, rfl, id, fun _ => id⟩
  · exact ⟨rfl, rfl, rfl, rfl, id, fun _ => id⟩

/-- Everything a load can do: a fault, or the bytes copied from 0x200 on (70_reset_and_hazards.md R124). -/
theorem loadProgram_cases (s : State) (bytes : List Byte) :
    (∃ f, loadProgram s bytes = s.markStarted.halt f) ∨
    (Config.programStart + bytes.length ≤ Config.memSize ∧
      loadProgram s bytes = { s.markStarted with mem := s.mem.writeBytes Config.programStart bytes }) := by
  unfold loadProgram
  split
  · exact .inl ⟨_, rfl⟩
  · next h => exact .inr ⟨Nat.le_of_not_lt h, rfl⟩

/-- Everything a cycle can do: a fetch or a decode fault, or the fetched instruction on the advanced state (40_cycle.md
R53 to R57). -/
theorem cycle_cases {s t : State} (h : cycle s = .next t) :
    (∃ f, t = s.markStarted.halt f) ∨
    (s.pc.toNat + 1 < 4096 ∧ ∃ i, decodeWord s.fetchWord = some i ∧ Ends s.markStarted.advance i t) := by
  unfold cycle at h
  split at h
  · next hfetch =>
    split at h
    · next i hi => exact .inr ⟨of_decide_eq_true hfetch, i, hi, ends_of_exec h⟩
    · cases h; exact .inl ⟨_, rfl⟩
  · cases h; exact .inl ⟨_, rfl⟩

/-- What a predicate of states needs in order to be kept by every step. -/
structure Kept (P : State → Prop) : Prop where
  quiet : ∀ {s t}, Quiet s t → P s → P t
  reset : P State.reset
  load : ∀ {s bytes}, s.loadedOrStarted = false → Config.programStart + bytes.length ≤ Config.memSize → P s →
    P { s.markStarted with mem := s.mem.writeBytes Config.programStart bytes }
  instr : ∀ {s i t}, s.run = .running → s.pc.toNat + 1 < 4096 → decodeWord s.fetchWord = some i → P s →
    Ends s.markStarted.advance i t → P t

section
variable {P : State → Prop} (hP : Kept P)
include hP

theorem Kept.loadProgram {s : State} {bytes : List Byte} (hbit : s.loadedOrStarted = false) (hs : P s) :
    P (Machine.loadProgram s bytes) := by
  rcases loadProgram_cases s bytes with ⟨f, hf⟩ | ⟨hfits, hcopy⟩
  · exact hf ▸ hP.quiet (quiet_halt s f) hs
  · exact hcopy ▸ hP.load hbit hfits hs

theorem Kept.cycle {s t : State} (hrun : s.run = .running) (hs : P s) (h : Machine.cycle s = .next t) : P t := by
  rcases cycle_cases h with ⟨f, rfl⟩ | ⟨hpc, i, hi, hends⟩
  · exact hP.quiet (quiet_halt s f) hs
  · exact hP.instr hrun hpc hi hs hends

theorem Kept.effect {e : Event} {s t : State} (hen : enabled e s = true) (hs : P s) (h : Machine.effect e s = .next t) :
    P t := by
  cases e with
  | reset => cases h; exact hP.quiet (quiet_resetMachine s) hP.reset
  | loadRom bytes =>
    cases h
    simp only [enabled, Bool.and_eq_true, Bool.not_eq_true'] at hen
    obtain ⟨hbit, -⟩ := hen
    exact hP.loadProgram hbit hs
  | step => exact hP.cycle (by simpa [enabled] using hen) hs h
  | wake => cases h; exact hP.quiet (quiet_wakeUp s) hs
  | tick => cases h; exact hP.quiet (quiet_tickTimers s) hs
  | setKey k pressed => cases h; exact hP.quiet (quiet_keyEvent s k pressed) hs

theorem Kept.present {e : Event} {s t : State} (hs : P s) (h : Machine.present e s = .next t) : P t := by
  cases hen : enabled e s with
  | true => exact hP.effect hen hs (present_of_enabled hen ▸ h)
  | false =>
    rw [present_of_disabled hen] at h
    cases h
    exact hs

/-- A step presents one event, with that event gone from the schedule. -/
theorem Kept.step {s t : State} (hs : P s) (h : Machine.step s = .next t) : P t := by
  unfold Machine.step move at h
  split at h
  · next e rest _ =>
    have hquiet : Quiet s { s with schedule := rest } := ⟨rfl, rfl, rfl, rfl, id, fun _ => id⟩
    exact hP.present (hP.quiet hquiet hs) h
  · exact hP.present hs h

end

/-- Memory stays canonical: the stores and the load write inside it (20_memory.md R34). -/
theorem kept_memOk : Kept State.memOk where
  quiet h hs := by rw [State.memOk, h.mem]; exact hs
  reset := State.reset_memOk
  load _ hfits hs := Memory.wf_writeBytes hs _ _ hfits
  instr _ _ _ hs hends := by
    cases hends with
    | memory a bs hi hfits => exact Memory.wf_writeBytes hs a bs hfits
    | skip => rw [State.memOk, State.skipIf_mem]; exact hs
    | _ => exact hs

theorem toNat_add_two {w : BitVec 16} (h : w.toNat ≤ 4096) : (w + 2#16).toNat = w.toNat + 2 := by bv_omega

theorem toNat_sub_two {w : BitVec 16} (h : 2 ≤ w.toNat) : (w - 2#16).toNat = w.toNat - 2 := by bv_omega

/-- A fetched instruction lies in `0..4095`, so the advance does not wrap (40_cycle.md R55). -/
theorem advance_pc_toNat {s : State} (h : s.pc.toNat + 1 < 4096) :
    s.markStarted.advance.pc.toNat = s.pc.toNat + 2 := toNat_add_two (w := s.pc) (by omega)

/-- An instruction whose successor's address is at most 4096 leaves `pc` and the return addresses in their bounds: `Call`
pushes that address, and a fault goes back by 2. -/
theorem Ends.pcOk {i : Instr} {s t : State} (hends : Ends s i t) (hlow : 2 ≤ s.pc.toNat) (hhigh : s.pc.toNat ≤ 4096)
    (hlive : ∀ k : Fin 16, k.val < s.sp.val → (s.stack[k]).toNat ≤ 4096) : t.pcOk := by
  have hstay : s.pc.toNat ≤ 0x10FE := Nat.le_trans hhigh (by decide)
  cases hends with
  | fault i f =>
    exact ⟨Nat.le_trans (toNat_sub_two hlow).le (by omega), hlive⟩
  | jump hi hw => exact ⟨hw, hlive⟩
  | @skip _ taken hi =>
    cases taken with
    | true => exact ⟨Nat.le_trans (toNat_add_two hhigh).le (by omega), hlive⟩
    | false => exact ⟨hstay, hlive⟩
  | call nnn h =>
    refine ⟨Nat.le_trans (addrOperand_le nnn) (by decide), fun k hk => ?_⟩
    have hk : k.val < s.sp.val + 1 := hk
    show ((s.stack.set s.sp.val s.pc h)[k.val]).toNat ≤ 4096
    rw [Vector.getElem_set]
    split
    · exact hhigh
    · exact hlive k (by omega)
  | ret h =>
    have hle := s.sp_le
    have htop := hlive ⟨s.sp.val - 1, by omega⟩ (Nat.sub_lt h Nat.one_pos)
    exact ⟨Nat.le_trans htop (by decide), fun k hk => hlive k (Nat.lt_of_lt_of_le hk (Nat.sub_le ..))⟩
  | _ => exact ⟨hstay, hlive⟩

/-- `pc` and the return addresses stay in their bounds: the advanced `pc` is at most 4096. -/
theorem kept_pcOk : Kept State.pcOk where
  quiet h hs := by rw [State.pcOk, h.pc, h.sp, h.stack]; exact hs
  reset := State.reset_pcOk
  load _ _ hs := hs
  instr {s _ _} _ hpc _ hs hends := by
    have hadvance := advance_pc_toNat hpc
    exact hends.pcOk (by omega) (by omega) hs.2

/-- Only `WaitKey` begins a wait. -/
theorem Ends.eq_waitKey {i : Instr} {s t : State} (hends : Ends s i t) (hrun : s.run = .running) {x : Reg}
    (hwait : t.run = .waitKey x) : i = .waitKey x ∧ t = { s with lastKey := none, run := .waitKey x } := by
  cases hends with
  | waitKey y => cases hwait; exact ⟨rfl, rfl⟩
  | fault => cases hwait
  | skip => rw [State.skipIf_run, hrun] at hwait; cases hwait
  | _ => cases hrun.symm.trans hwait

/-- The two bytes before the advanced `pc` are those of the instruction in execution; and the bit that the first step sets
keeps a load from overwriting them during the wait (70_reset_and_hazards.md R124). -/
theorem kept_waitOk : Kept State.waitOk where
  quiet h hs := by
    intro x hx
    obtain ⟨hbit, hword⟩ := hs x (h.wait x hx)
    rw [h.mem, h.pc]
    exact ⟨h.bit hbit, hword⟩
  reset := State.reset_waitOk
  load hbit _ hs := waitOk_of_not_waiting fun x hx => by
    obtain ⟨hset, -⟩ := hs x hx
    exact absurd (hbit.symm.trans hset) Bool.false_ne_true
  instr {s i t} hrun hpc hi _ hends x hx := by
    obtain ⟨rfl, rfl⟩ := hends.eq_waitKey hrun hx
    have hadvance := advance_pc_toNat hpc
    show true = true ∧ 2 ≤ s.markStarted.advance.pc.toNat ∧ s.markStarted.advance.pc.toNat ≤ 4096 ∧
      decodeWord (wordOfBytes (s.mem.read (s.markStarted.advance.pc.toNat - 2))
        (s.mem.read (s.markStarted.advance.pc.toNat - 1))) = _
    rw [hadvance]
    exact ⟨rfl, by omega, by omega, hi⟩

end Sys2Proof.Machine

namespace Sys2Proof

open Machine

/-- Settles O52: canonical memory is kept by every event, the stores and the load writing inside memory. -/
theorem stepKeepsMemoryCanonical : Obligations.StepKeepsMemoryCanonical := fun _ _ => kept_memOk.step

/-- Settles O53: the bounds are kept by every event, by cases on how the step's instruction ends. -/
theorem stepKeepsPcBound : Obligations.StepKeepsPcBound := fun _ _ => kept_pcOk.step

/-- Settles O54: only `WaitKey` begins a wait, and during one no event changes `pc`, memory or the bit. -/
theorem stepKeepsWaitAfterWaitKey : Obligations.StepKeepsWaitAfterWaitKey := fun _ _ => kept_waitOk.step

end Sys2Proof
end

section
/-! PROOF. Memory as the fetch reads it: the word order (20_memory.md R30), and registers stored where the fetch reads
(R39). -/

namespace Sys2Proof.Machine

theorem wordOfBytes_toNat (hi lo : Byte) : (wordOfBytes hi lo).toNat = hi.toNat * 256 + lo.toNat := by
  have hlo := lo.isLt
  rw [wordOfBytes, BitVec.toNat_append, ← Nat.shiftLeft_add_eq_or_of_lt hlo, Nat.shiftLeft_eq]

/-- What `StoreRegs(x)` does where `I .. I + x` lie in memory (43_index_memory.md R88). -/
theorem execStoreRegs_fits {s : State} {x : Reg} (h : s.i.toNat + x.toNat ≤ 4095) :
    execStoreRegs x s = .next { s with mem := s.mem.writeBytes (s.effAddr 0) (s.regsUpTo x) } :=
  withData_fits _ ((s.dataFits_iff _).mpr (.inr (Nat.lt_succ_of_le h)))

/-- The registers written from `I` on lie one per address, in order. -/
theorem State.read_writeBytes_regsUpTo (s : State) {x r : Reg} (h : r.toNat ≤ x.toNat) :
    (s.mem.writeBytes (s.effAddr 0) (s.regsUpTo x)).read (s.i.toNat + r.toNat) = s.getV r := by
  have hlen := s.length_regsUpTo x
  have hbase : s.effAddr 0 = s.i.toNat := rfl
  rw [Memory.read_writeBytes, dif_pos (by omega), State.getElem_regsUpTo]
  simp only [hbase, Nat.add_sub_cancel_left, State.getV]

end Sys2Proof.Machine

namespace Sys2Proof

open Machine

/-- Settles O36: the fetched word is the two bytes appended, the one at `pc` on top. -/
theorem fetchIsBigEndian : Obligations.FetchIsBigEndian := fun _ => wordOfBytes_toNat _ _

/-- Settles O37: the stored `V[0]` and `V[1]` lie at `I` and `I + 1`, the two bytes that a fetch at `I` reads. -/
theorem storedRegistersAreFetched : Obligations.StoredRegistersAreFetched := by
  intro s x hx hfits
  refine ⟨_, execStoreRegs_fits hfits, (fetchIsBigEndian _).trans ?_⟩
  have hhigh := s.read_writeBytes_regsUpTo (x := x) (r := 0#4) (Nat.zero_le _)
  have hlow := s.read_writeBytes_regsUpTo (x := x) (r := 1#4) hx
  rw [← hhigh, ← hlow]
  rfl

end Sys2Proof
end

section
/-! PROOF. The decoder and the encoder against R46's opcode map (30_encoding.md R45 to R51): the map by its mask and
match columns, the row that answers, a row's instruction encoded back, and the words no row matches. -/

namespace Sys2Proof

/-! ### The opcode map by its mask and match columns -/

/-- A pattern digit's nibble of the mask column: operand digits are not tested. -/
def digitMask : Option Nibble → Nibble
  | none => 0x0
  | some _ => 0xF

/-- A pattern digit's nibble of the match column. -/
def digitValue : Option Nibble → Nibble
  | none => 0x0
  | some c => c

/-- The row of the mask and match table that a pattern stands for. -/
def OpcodeRow.toMaskRow (r : OpcodeRow) : MaskRow :=
  ⟨encodeXY 0xF (digitMask r.n1) (digitMask r.n2) (digitMask r.n3),
    encodeXY r.n0 (digitValue r.n1) (digitValue r.n2) (digitValue r.n3), r.make⟩

theorem maskTable_eq_map : maskTable = opcodeMap.map OpcodeRow.toMaskRow := rfl

theorem and_encodeXY (op x y n op' x' y' n' : Nibble) :
    encodeXY op x y n &&& encodeXY op' x' y' n' = encodeXY (op &&& op') (x &&& x') (y &&& y') (n &&& n') := by
  simp only [encodeXY]
  exact BitVec.and_append.trans (congrArg (· ++ _) (BitVec.and_append.trans (congrArg (· ++ _) BitVec.and_append)))

theorem encodeXY_inj {op x y n op' x' y' n' : Nibble} :
    encodeXY op x y n = encodeXY op' x' y' n' ↔ op = op' ∧ x = x' ∧ y = y' ∧ n = n' := by
  constructor
  · intro h
    exact ⟨by simpa using congrArg fieldN0 h, by simpa using congrArg fieldX h, by simpa using congrArg fieldY h,
      by simpa using congrArg fieldN h⟩
  · rintro ⟨rfl, rfl, rfl, rfl⟩
    rfl

theorem digitAccepts_iff {d : Option Nibble} {n : Nibble} :
    digitAccepts d n = true ↔ n &&& digitMask d = digitValue d := by
  cases d with
  | none => exact iff_of_true rfl BitVec.and_zero
  | some c =>
    have hkeep : n &&& 0xF = n := BitVec.and_allOnes
    rw [digitAccepts, digitMask, digitValue, hkeep, beq_iff_eq, eq_comm]

/-- A row matches where its four digits accept the word's four nibbles. -/
theorem rowMatches_iff {r : OpcodeRow} {w : Word} :
    rowMatches r w = true ↔ r.n0 = fieldN0 w ∧ digitAccepts r.n1 (fieldX w) = true ∧
      digitAccepts r.n2 (fieldY w) = true ∧ digitAccepts r.n3 (fieldN w) = true := by
  simp [rowMatches, and_assoc]

/-- Matching digit by digit is `w & mask = match` (30_encoding.md R46). -/
theorem rowMatches_iff_mask {r : OpcodeRow} {w : Word} :
    rowMatches r w = true ↔ w &&& r.toMaskRow.mask = r.toMaskRow.value := by
  have hkeep : fieldN0 w &&& 0xF = fieldN0 w := BitVec.and_allOnes
  conv_rhs => rw [← encodeXY_fields w]
  simp only [OpcodeRow.toMaskRow, and_encodeXY, encodeXY_inj, rowMatches_iff, digitAccepts_iff, hkeep,
    eq_comm (a := r.n0)]

/-! ### The row that answers -/

/-- Two digits are constants that differ. -/
def digitsClash : Option Nibble → Option Nibble → Bool
  | some c, some d => c != d
  | _, _ => false

/-- Two patterns have a digit where they clash, so no word matches both. -/
def OpcodeRow.clashes (r r' : OpcodeRow) : Bool :=
  r.n0 != r'.n0 || digitsClash r.n1 r'.n1 || digitsClash r.n2 r'.n2 || digitsClash r.n3 r'.n3

theorem digitsClash_eq_false {d d' : Option Nibble} {n : Nibble} (h : digitAccepts d n = true)
    (h' : digitAccepts d' n = true) : digitsClash d d' = false := by
  cases d with
  | none => rfl
  | some c =>
    cases d' with
    | none => rfl
    | some c' =>
      obtain rfl := eq_of_beq h
      obtain rfl := eq_of_beq h'
      exact bne_self_eq_false _

theorem OpcodeRow.clashes_eq_false {r r' : OpcodeRow} {w : Word} (h : rowMatches r w = true)
    (h' : rowMatches r' w = true) : r.clashes r' = false := by
  obtain ⟨h0, h1, h2, h3⟩ := rowMatches_iff.mp h
  obtain ⟨h0', h1', h2', h3'⟩ := rowMatches_iff.mp h'
  simp [OpcodeRow.clashes, h0, h0', digitsClash_eq_false h1 h1', digitsClash_eq_false h2 h2',
    digitsClash_eq_false h3 h3']

/-- Only rows 1 and 2, `00E0` and `00EE`, overlap another row; from row 3 on the order does not matter. -/
theorem opcodeMap_pairwise_clashes : (opcodeMap.drop 2).Pairwise fun r r' => r.clashes r' = true := by decide

theorem find?_rowMatches_cons_of_neg {a : OpcodeRow} {rows : List OpcodeRow} {w : Word} (h : ¬ rowMatches a w = true) :
    (a :: rows).find? (fun r => rowMatches r w) = rows.find? (fun r => rowMatches r w) :=
  List.find?_cons_of_neg (p := fun r => rowMatches r w) h

/-- Among rows that clash in pairs, the matching row is the first. -/
theorem find?_rowMatches {rows : List OpcodeRow} {r : OpcodeRow} {w : Word}
    (hclash : rows.Pairwise fun r r' => r.clashes r' = true) (hr : r ∈ rows) (hm : rowMatches r w = true) :
    rows.find? (fun r => rowMatches r w) = some r := by
  induction hclash with
  | nil => cases hr
  | @cons a rows ha _ ih =>
    rcases List.mem_cons.mp hr with rfl | hmem
    · exact List.find?_cons_of_pos hm
    · have hno : ¬ rowMatches a w = true := fun h => by simpa [ha r hmem] using OpcodeRow.clashes_eq_false h hm
      rw [find?_rowMatches_cons_of_neg hno, ih hmem]

theorem eq_encodeXY_of_row {op x y n : Nibble} {mk : Word → Instr} {w : Word}
    (h : rowMatches ⟨op, some x, some y, some n, mk⟩ w = true) : w = encodeXY op x y n := by
  obtain ⟨h0, h1, h2, h3⟩ := rowMatches_iff.mp h
  simp only [digitAccepts, beq_iff_eq] at h0 h1 h2 h3
  rw [h0, h1, h2, h3, encodeXY_fields]

/-- A matching row gives the decoder's answer where its instruction is well-formed: only row 3 overlaps rows before it,
on the two words where it makes an ill-formed `Sys`. -/
theorem decodeWord_of_row {w : Word} {r : OpcodeRow} (hr : r ∈ opcodeMap) (hm : rowMatches r w = true)
    (hwf : (r.make w).wellFormed = true) : decodeWord w = some (r.make w) := by
  by_cases hclear : w = 0x00E0
  · subst hclear
    revert r
    decide
  by_cases hret : w = 0x00EE
  · subst hret
    revert r
    decide
  have hno1 : ¬ rowMatches opcodeMap[0] w = true := fun h => hclear (eq_encodeXY_of_row h)
  have hno2 : ¬ rowMatches opcodeMap[1] w = true := fun h => hret (eq_encodeXY_of_row h)
  have hfind : opcodeMap.find? (fun r => rowMatches r w) = (opcodeMap.drop 2).find? (fun r => rowMatches r w) :=
    (find?_rowMatches_cons_of_neg hno1).trans (find?_rowMatches_cons_of_neg hno2)
  have hmem : r ∈ opcodeMap.drop 2 := by
    rcases List.mem_cons.mp hr with rfl | hr
    · exact absurd hm hno1
    rcases List.mem_cons.mp hr with rfl | hr
    · exact absurd hm hno2
    · exact hr
  rw [decodeWord, hfind, find?_rowMatches opcodeMap_pairwise_clashes hmem hm]
  rfl

theorem hasRow : ∀ i : Instr, Laws.HasRow.Statement i
  | .clear => Laws.HasRow.clear
  | .ret => Laws.HasRow.ret
  | .sys nnn => Laws.HasRow.sys nnn
  | .jump nnn => Laws.HasRow.jump nnn
  | .call nnn => Laws.HasRow.call nnn
  | .skipEq x kk => Laws.HasRow.skipEq x kk
  | .skipNeq x kk => Laws.HasRow.skipNeq x kk
  | .skipEqReg x y => Laws.HasRow.skipEqReg x y
  | .loadImm x kk => Laws.HasRow.loadImm x kk
  | .addImm x kk => Laws.HasRow.addImm x kk
  | .loadReg x y => Laws.HasRow.loadReg x y
  | .orReg x y => Laws.HasRow.orReg x y
  | .andReg x y => Laws.HasRow.andReg x y
  | .xorReg x y => Laws.HasRow.xorReg x y
  | .addReg x y => Laws.HasRow.addReg x y
  | .subReg x y => Laws.HasRow.subReg x y
  | .shiftRight x => Laws.HasRow.shiftRight x
  | .subnReg x y => Laws.HasRow.subnReg x y
  | .shiftLeft x => Laws.HasRow.shiftLeft x
  | .skipNeqReg x y => Laws.HasRow.skipNeqReg x y
  | .loadIndex nnn => Laws.HasRow.loadIndex nnn
  | .jumpOffset nnn => Laws.HasRow.jumpOffset nnn
  | .random x kk => Laws.HasRow.random x kk
  | .draw x y n => Laws.HasRow.draw x y n
  | .skipKeyPressed x => Laws.HasRow.skipKeyPressed x
  | .skipKeyNotPressed x => Laws.HasRow.skipKeyNotPressed x
  | .storeDelayTimer x => Laws.HasRow.storeDelayTimer x
  | .waitKey x => Laws.HasRow.waitKey x
  | .setDelayTimer x => Laws.HasRow.setDelayTimer x
  | .setSoundTimer x => Laws.HasRow.setSoundTimer x
  | .addIndex x => Laws.HasRow.addIndex x
  | .loadFontAddr x => Laws.HasRow.loadFontAddr x
  | .storeBcd x => Laws.HasRow.storeBcd x
  | .storeRegs x => Laws.HasRow.storeRegs x
  | .loadRegs x => Laws.HasRow.loadRegs x

theorem decodeWord_encode {i : Instr} (hwf : i.wellFormed = true) : decodeWord (encode i) = some i := by
  obtain ⟨r, hr, hm, hmake⟩ := hasRow i
  rw [← hmake] at hwf
  rw [decodeWord_of_row hr hm hwf, hmake]

/-! ### A row's instruction encoded back -/

/-- The instruction encodes to the word, or it is a shift and encodes to the word with its `y` nibble 0. -/
def EncodesBack (w : Word) (i : Instr) : Prop :=
  encode i = w ∨ ((i = .shiftRight (fieldX w) ∨ i = .shiftLeft (fieldX w)) ∧ encode i = w &&& 0xFF0F)

namespace EncodesBack

variable {op x y n : Nibble} {mk : Word → Instr} {w : Word} {i : Instr}

theorem fixed (hi : encode i = encodeXY op x y n) (h : rowMatches ⟨op, some x, some y, some n, mk⟩ w = true) :
    EncodesBack w i :=
  .inl (hi.trans (eq_encodeXY_of_row h).symm)

theorem nnn (hi : encode i = encodeNNN op (fieldNNN w)) (h : rowMatches ⟨op, none, none, none, mk⟩ w = true) :
    EncodesBack w i := by
  obtain ⟨rfl, -⟩ := rowMatches_iff.mp h
  exact .inl (hi.trans (encodeNNN_fields w))

theorem xkk (hi : encode i = encodeXKK op (fieldX w) (fieldKK w))
    (h : rowMatches ⟨op, none, none, none, mk⟩ w = true) : EncodesBack w i := by
  obtain ⟨rfl, -⟩ := rowMatches_iff.mp h
  exact .inl (hi.trans (encodeXKK_fields w))

theorem xyn (hi : encode i = encodeXY op (fieldX w) (fieldY w) (fieldN w))
    (h : rowMatches ⟨op, none, none, none, mk⟩ w = true) : EncodesBack w i := by
  obtain ⟨rfl, -⟩ := rowMatches_iff.mp h
  exact .inl (hi.trans (encodeXY_fields w))

theorem encodeXY_of_row (h : rowMatches ⟨op, none, none, some n, mk⟩ w = true) :
    encodeXY op (fieldX w) (fieldY w) n = w := by
  obtain ⟨rfl, -, -, hn⟩ := rowMatches_iff.mp h
  obtain rfl := eq_of_beq hn
  exact encodeXY_fields w

theorem xy (hi : encode i = encodeXY op (fieldX w) (fieldY w) n)
    (h : rowMatches ⟨op, none, none, some n, mk⟩ w = true) : EncodesBack w i :=
  .inl (hi.trans (encodeXY_of_row h))

theorem xsub {sub : Byte} (hi : encode i = encodeX op (fieldX w) sub) (hy : sub.extractLsb' 4 4 = y)
    (hn : sub.extractLsb' 0 4 = n) (h : rowMatches ⟨op, none, some y, some n, mk⟩ w = true) : EncodesBack w i := by
  obtain ⟨rfl, -, hy', hn'⟩ := rowMatches_iff.mp h
  obtain rfl := eq_of_beq hy'
  obtain rfl := eq_of_beq hn'
  rw [encodeX_eq_encodeXY, hy, hn] at hi
  exact .inl (hi.trans (encodeXY_fields w))

/-- The ignored `y` nibble is encoded as 0 (30_encoding.md R49, R51). -/
theorem shift (hshift : i = .shiftRight (fieldX w) ∨ i = .shiftLeft (fieldX w))
    (hi : encode i = encodeXY op (fieldX w) 0x0 n) (h : rowMatches ⟨op, none, none, some n, mk⟩ w = true) :
    EncodesBack w i := by
  have hmask : encodeXY op (fieldX w) (fieldY w) n &&& encodeXY 0xF 0xF 0x0 0xF = encodeXY op (fieldX w) 0x0 n := by
    have hkeep (m : Nibble) : m &&& 0xF = m := BitVec.and_allOnes
    have hzero : fieldY w &&& 0x0 = 0x0 := BitVec.and_zero
    rw [and_encodeXY, hkeep, hkeep, hkeep, hzero]
  rw [encodeXY_of_row h] at hmask
  exact .inr ⟨hshift, hi.trans hmask.symm⟩

end EncodesBack

/-- Row by row, in the map's order. -/
theorem encodesBack_of_row {w : Word} : ∀ r ∈ opcodeMap, rowMatches r w = true → EncodesBack w (r.make w) := by
  simp only [opcodeMap, List.forall_mem_cons]
  exact
    ⟨.fixed rfl, .fixed rfl, .nnn rfl, .nnn rfl, .nnn rfl, .xkk rfl, .xkk rfl, .xy rfl, .xkk rfl, .xkk rfl,
      .xy rfl, .xy rfl, .xy rfl, .xy rfl, .xy rfl, .xy rfl, .shift (.inl rfl) rfl, .xy rfl, .shift (.inr rfl) rfl,
      .xy rfl, .nnn rfl, .nnn rfl, .xkk rfl, .xyn rfl, .xsub rfl rfl rfl, .xsub rfl rfl rfl, .xsub rfl rfl rfl,
      .xsub rfl rfl rfl, .xsub rfl rfl rfl, .xsub rfl rfl rfl, .xsub rfl rfl rfl, .xsub rfl rfl rfl,
      .xsub rfl rfl rfl, .xsub rfl rfl rfl, .xsub rfl rfl rfl, fun _ h => nomatch h⟩

theorem wellFormed_iff {i : Instr} : i.wellFormed = true ↔ i ≠ .sys 0x0E0 ∧ i ≠ .sys 0x0EE := by
  cases i with
  | sys nnn => simp [Instr.wellFormed]
  | _ => simp [Instr.wellFormed]

theorem encodesBack_of_decodeWord {w : Word} {i : Instr} (h : decodeWord w = some i) : EncodesBack w i := by
  obtain ⟨r, hr, hm, rfl⟩ := decodeWord_some h
  exact encodesBack_of_row r hr hm

/-- `Sys` is no shift, so the word is its encoding. -/
theorem eq_encode_of_decodeWord_sys {w : Word} {nnn : Addr} (h : decodeWord w = some (.sys nnn)) :
    w = encode (.sys nnn) := by
  obtain heq | ⟨hshift | hshift, -⟩ := encodesBack_of_decodeWord h
  · exact heq.symm
  · cases hshift
  · cases hshift

/-- Rows 1 and 2 take the two words of the ill-formed `Sys` (30_encoding.md R51). -/
theorem wellFormed_of_decodeWord {w : Word} {i : Instr} (h : decodeWord w = some i) : i.wellFormed = true := by
  rw [wellFormed_iff]
  constructor
  · rintro rfl
    exact absurd (eq_encode_of_decodeWord_sys h ▸ h) (by decide)
  · rintro rfl
    exact absurd (eq_encode_of_decodeWord_sys h ▸ h) (by decide)

/-! ### The words no row matches (30_encoding.md R47), by their top nibble -/

/-- The top nibbles with a row that tests no other nibble. -/
def freeMajors : List Nibble := [0x0, 0x1, 0x2, 0x3, 0x4, 0x6, 0x7, 0xA, 0xB, 0xC, 0xD]

theorem freeMajors_or (op : Nibble) :
    op ∈ freeMajors ∨ op = 0x5#4 ∨ op = 0x8#4 ∨ op = 0x9#4 ∨ op = 0xE#4 ∨ op = 0xF#4 := by
  revert op
  decide

section
variable {op x y n : Nibble}

theorem decodeWord_ne_none_of_freeMajor (h : op ∈ freeMajors) : decodeWord (encodeXY op x y n) ≠ none := by
  have hrow : ∃ r ∈ opcodeMap, r.n0 = op ∧ r.n1 = none ∧ r.n2 = none ∧ r.n3 = none := by
    revert op
    decide
  obtain ⟨r, hr, rfl, h1, h2, h3⟩ := hrow
  intro hnone
  simpa [rowMatches, digitAccepts, h1, h2, h3] using decodeWord_none.mp hnone r hr

theorem decodeWord_5xyn_eq_none_iff : decodeWord (encodeXY 0x5#4 x y n) = none ↔ n ≠ 0#4 := by
  simp [decodeWord_none, opcodeMap, rowMatches, digitAccepts, eq_comm (b := n)]

theorem decodeWord_8xyn_eq_none_iff :
    decodeWord (encodeXY 0x8#4 x y n) = none ↔ n ∈ [0x8#4, 0x9#4, 0xA#4, 0xB#4, 0xC#4, 0xD#4, 0xF#4] := by
  have hdigits : n ∉ [0x0#4, 0x1#4, 0x2#4, 0x3#4, 0x4#4, 0x5#4, 0x6#4, 0x7#4, 0xE#4] ↔
      n ∈ [0x8#4, 0x9#4, 0xA#4, 0xB#4, 0xC#4, 0xD#4, 0xF#4] := by
    revert n
    decide
  rw [← hdigits]
  simp [decodeWord_none, opcodeMap, rowMatches, digitAccepts, eq_comm (b := n)]

theorem decodeWord_9xyn_eq_none_iff : decodeWord (encodeXY 0x9#4 x y n) = none ↔ n ≠ 0#4 := by
  simp [decodeWord_none, opcodeMap, rowMatches, digitAccepts, eq_comm (b := n)]

theorem decodeWord_Exyn_eq_none_iff :
    decodeWord (encodeXY 0xE#4 x y n) = none ↔ (y, n) ∉ [(0x9#4, 0xE#4), (0xA#4, 0x1#4)] := by
  simp [decodeWord_none, opcodeMap, rowMatches, digitAccepts, eq_comm (b := n), eq_comm (b := y)]

theorem decodeWord_Fxyn_eq_none_iff :
    decodeWord (encodeXY 0xF#4 x y n) = none ↔ (y, n) ∉ [(0x0#4, 0x7#4), (0x0#4, 0xA#4), (0x1#4, 0x5#4),
      (0x1#4, 0x8#4), (0x1#4, 0xE#4), (0x2#4, 0x9#4), (0x3#4, 0x3#4), (0x5#4, 0x5#4), (0x6#4, 0x5#4)] := by
  simp [decodeWord_none, opcodeMap, rowMatches, digitAccepts, eq_comm (b := n), eq_comm (b := y)]

end

/-! ### The statements -/

/-- Settles O1: a matching row answers where its instruction is well-formed, and encodes back format by format. -/
theorem encodeAndDecodeAreInverse : Obligations.EncodeAndDecodeAreInverse :=
  ⟨fun _ => decodeWord_encode, fun _ _ h => ⟨wellFormed_of_decodeWord h, encodesBack_of_decodeWord h⟩⟩

/-- Settles O2: the table is the opcode map with each pattern as mask and match, and a pattern fits where these do. -/
theorem decoderFollowsMaskAndMatch : Obligations.DecoderFollowsMaskAndMatch := by
  intro w
  have hfits (r : OpcodeRow) : (w &&& r.toMaskRow.mask == r.toMaskRow.value) = rowMatches r w :=
    Bool.eq_iff_iff.mpr (beq_iff_eq.trans rowMatches_iff_mask.symm)
  rw [maskTable_eq_map, List.find?_map, Option.map_map]
  simp only [Function.comp_def, hfits]
  rfl

/-- Settles O3: by the top nibble; a free one has a row that matches, the other five refuse their family. -/
theorem unsupportedWordsAreTheListedOnes : Obligations.UnsupportedWordsAreTheListedOnes := by
  intro n0 x y n
  change decodeWord (encodeXY n0 x y n) = none ↔ _
  rcases freeMajors_or n0 with hfree | rfl | rfl | rfl | rfl | rfl
  case inl =>
    have hlisted : n0 ≠ 0x5#4 ∧ n0 ≠ 0x8#4 ∧ n0 ≠ 0x9#4 ∧ n0 ≠ 0xE#4 ∧ n0 ≠ 0xF#4 := by
      revert n0
      decide
    simp [decodeWord_ne_none_of_freeMajor hfree, hlisted]
  · exact decodeWord_5xyn_eq_none_iff.trans (by simp)
  · exact decodeWord_8xyn_eq_none_iff.trans (by simp)
  · exact decodeWord_9xyn_eq_none_iff.trans (by simp)
  · exact decodeWord_Exyn_eq_none_iff.trans (by simp)
  · exact decodeWord_Fxyn_eq_none_iff.trans (by simp)

/-- Settles O4, by evaluating the decoder on each word. -/
theorem sampleWordsDecode : Obligations.SampleWordsDecode := by
  unfold Obligations.SampleWordsDecode
  decide

end Sys2Proof
end

section
/-! PROOF. The step, its event and its cycle (40_cycle.md R52 to R61): which event a step presents, a fetched word
that decodes run on the advanced state, a word placed where the step fetches, and the two halves of `WaitKey`. -/

namespace Sys2Proof.Machine

variable {s : State}

/-! ### The event of a step -/

theorem step_of_scheduled {e : Event} {rest : List Event} (h : s.schedule = e :: rest) :
    step s = present e { s with schedule := rest } := by
  simp only [step, move, h]

theorem step_of_empty (h : s.schedule = []) : step s = present (ownEvent s) s := by
  simp only [step, move, h]

theorem ownEvent_of_running (h : s.run = .running) : ownEvent s = .step := by
  simp only [ownEvent, h]

theorem ownEvent_of_waiting {x : Reg} (h : s.run = .waitKey x) : ownEvent s = .wake := by
  simp only [ownEvent, h]

theorem ownEvent_of_halted {f : Fault} (h : s.run = .halted f) : ownEvent s = .step := by
  simp only [ownEvent, h]

/-! ### Where `step` and `wake` are enabled (40_cycle.md R52) -/

theorem present_step_of_running (h : s.run = .running) : present .step s = cycle s :=
  present_of_enabled (beq_iff_eq.mpr h)

theorem present_step_of_not_running (h : s.run ≠ .running) : present .step s = .next s :=
  present_of_disabled (beq_eq_false_iff_ne.mpr h)

theorem present_wake_of_no_key {x : Reg} (hrun : s.run = .waitKey x) (hkey : s.lastKey = none) :
    present .wake s = .next s :=
  present_of_disabled (by simp only [enabled, hrun, hkey, Option.isSome_none])

theorem present_wake_of_running (h : s.run = .running) : present .wake s = .next s :=
  present_of_disabled (by simp only [enabled, h])

theorem present_wake_of_key {x : Reg} {k : Key} (hrun : s.run = .waitKey x) (hkey : s.lastKey = some k) :
    present .wake s = .next { s.setV x (k.setWidth 8) with run := .running } := by
  rw [present_of_enabled (by simp only [enabled, hrun, hkey, Option.isSome_some])]
  simp only [effect, wakeUp, hrun, hkey]

/-! ### The cycle of a word that decodes -/

theorem decode_eq_instr_iff {hi lo : Byte} {i : Instr} :
    decode [hi, lo] = .instr i ↔ decodeWord (wordOfBytes hi lo) = some i := by
  simp only [decode]
  split
  · next h => simp [h]
  · next h => simp [h]

theorem cycle_of_decodes {i : Instr} (hpc : fetchable s.pc = true) (hi : decodeWord s.fetchWord = some i) :
    cycle s = exec i s.markStarted.advance := by
  simp only [cycle, if_pos hpc, hi]

theorem present_step_of_decodes {i : Instr} (hrun : s.run = .running) (hpc : fetchable s.pc = true)
    (hi : decodeWord s.fetchWord = some i) :
    present .step s = exec i { s with pc := s.pc + 2#16, loadedOrStarted := true } :=
  (present_step_of_running hrun).trans (cycle_of_decodes hpc hi)

/-! ### A word placed where the step fetches -/

theorem fetchable_fetchSite (s : State) : fetchable (fetchSite s) = true := by
  unfold fetchSite
  split
  · assumption
  · rfl

theorem wordOfBytes_extract (w : Word) : wordOfBytes (w.extractLsb' 8 8) (w.extractLsb' 0 8) = w := by
  apply BitVec.eq_of_toNat_eq
  have hw := w.isLt
  simp only [wordOfBytes_toNat, BitVec.extractLsb'_toNat, Nat.shiftRight_eq_div_pow]
  omega

theorem fetchWord_placeWord (s : State) (w : Word) : (placeWord s w).fetchWord = w := by
  have hhigh : (placeWord s w).mem.read (fetchSite s).toNat = w.extractLsb' 8 8 := by
    simp [placeWord, Memory.read_writeBytes]
  have hlow : (placeWord s w).mem.read ((fetchSite s).toNat + 1) = w.extractLsb' 0 8 := by
    simp [placeWord, Memory.read_writeBytes]
  exact (congrArg₂ wordOfBytes hhigh hlow).trans (wordOfBytes_extract w)

theorem withFetchWord_toNat (s : State) (w : Word) : s.withFetchWord 16 w.toNat = placeWord s w := by
  rw [State.withFetchWord, Nat.mod_eq_of_lt w.isLt, BitVec.ofNat_toNat, BitVec.setWidth_eq]

end Sys2Proof.Machine

namespace Sys2Proof

open Machine

/-- Settles O44: an empty schedule leaves the default event to the run state, and where that is not enabled nothing
changes. -/
theorem stepTakesTheScheduledEvent : Obligations.StepTakesTheScheduledEvent := by
  intro s
  refine ⟨fun e rest => step_of_scheduled, fun hempty hrun => ?_, fun x k hempty hrun _ => ?_,
    fun x hempty hrun hkey => ?_, fun f hempty hrun => ?_⟩
  · rw [step_of_empty hempty, ownEvent_of_running hrun]
  · rw [step_of_empty hempty, ownEvent_of_waiting hrun]
  · rw [step_of_empty hempty, ownEvent_of_waiting hrun, present_wake_of_no_key hrun hkey]
  · rw [step_of_empty hempty, ownEvent_of_halted hrun, present_step_of_not_running (by simp [hrun])]

/-- Settles O34: either way the step presents `step`, whose cycle fetches the two bytes and runs what they decode to. -/
theorem stepRunsTheDecodedInstruction : Obligations.StepRunsTheDecodedInstruction := by
  intro s i hrun hpc hdecode
  have hfetch : fetchable s.pc = true := decide_eq_true (Nat.lt_succ_of_le hpc)
  have hi : decodeWord s.fetchWord = some i := decode_eq_instr_iff.mp hdecode
  constructor
  · intro hempty
    rw [step_of_empty hempty, ownEvent_of_running hrun, present_step_of_decodes hrun hfetch hi]
  · intro rest hsched
    rw [step_of_scheduled hsched]
    exact present_step_of_decodes (s := { s with schedule := rest }) hrun hfetch hi

/-- Settles O45: the placed word is what the fetch reads, the machine runs and the schedule is empty, so O34 applies. -/
theorem placedWordRunsNext : Obligations.PlacedWordRunsNext := by
  intro s w i hi
  rw [withFetchWord_toNat]
  have hpc : (fetchSite s).toNat + 1 ≤ 4095 := Nat.le_of_lt_succ (of_decide_eq_true (fetchable_fetchSite s))
  have hdecode : decodeWord (placeWord s w).fetchWord = some i := (fetchWord_placeWord s w).symm ▸ hi
  obtain ⟨hstep, -⟩ := stepRunsTheDecodedInstruction (placeWord s w) i rfl hpc (decode_eq_instr_iff.mpr hdecode)
  exact hstep rfl

/-- Settles O31: the first half as it stands; the second by where `step` and `wake` are enabled. -/
theorem waitKeyTwoHalves : Obligations.WaitKeyTwoHalves := by
  refine ⟨fun _ _ => rfl, fun s x k hrun hkey => ?_, fun s x hrun => ?_, fun s x => present_wake_of_no_key,
    fun s => present_wake_of_running⟩
  · refine ⟨_, present_wake_of_key hrun hkey, rfl, fun r => ?_, rfl, fun _ => rfl⟩
    exact (s.getV_setV x r _).trans (by simp only [eq_comm (a := x)])
  · exact present_step_of_not_running (by simp [hrun])

end Sys2Proof
end

section
/-! PROOF. The last-transition slot after a run of `set_key` events (60_exceptions.md R116): where the run has no
transition the slot is as before, and where it has one the slot holds the key of the last. -/

namespace Sys2Proof.Machine

theorem keyEvent_lastKey_of_qualifies {s : State} {e : Key × Bool} (h : qualifies s e) :
    (keyEvent s e.1 e.2).lastKey = some e.1 := by
  obtain ⟨hpressed, hup⟩ := h
  simp [keyEvent, hpressed, hup]

theorem keyEvent_lastKey_of_not_qualifies {s : State} {e : Key × Bool} (h : ¬ qualifies s e) :
    (keyEvent s e.1 e.2).lastKey = s.lastKey := by
  unfold keyEvent
  split
  · next hpressed =>
    split
    · rfl
    · next hup => exact absurd ⟨hpressed, Bool.eq_false_of_not_eq_true hup⟩ h
  · rfl

theorem keysAfter_append (s : State) (before after : List (Key × Bool)) :
    keysAfter s (before ++ after) = keysAfter (keysAfter s before) after := List.foldl_append

theorem keysAfter_cons (s : State) (e : Key × Bool) (presses : List (Key × Bool)) :
    keysAfter s (e :: presses) = keysAfter (keyEvent s e.1 e.2) presses := rfl

/-- No event of the run is a transition from released to pressed. -/
def NoTransition (s : State) (presses : List (Key × Bool)) : Prop :=
  ∀ a e b, presses = a ++ e :: b → ¬ qualifies (keysAfter s a) e

/-- The run has a press of `k` that is a transition, and none after it. -/
def LastTransition (s : State) (presses : List (Key × Bool)) (k : Key) : Prop :=
  ∃ before after, presses = before ++ (k, true) :: after ∧ qualifies (keysAfter s before) (k, true) ∧
    ∀ a e b, after = a ++ e :: b → ¬ qualifies (keysAfter s (before ++ (k, true) :: a)) e

variable {s : State} {e : Key × Bool} {presses : List (Key × Bool)} {k : Key}

theorem noTransition_nil (s : State) : NoTransition s [] := by
  rintro (_ | _) e b h <;> cases h

theorem noTransition_cons :
    NoTransition s (e :: presses) ↔ ¬ qualifies s e ∧ NoTransition (keyEvent s e.1 e.2) presses := by
  constructor
  · intro h
    exact ⟨h [] e presses rfl, fun a e' b hab => h (e :: a) e' b (congrArg _ hab)⟩
  · rintro ⟨hfirst, hrest⟩ (_ | ⟨e', a⟩) e'' b hab
    · cases hab; exact hfirst
    · cases hab; exact hrest a e'' b rfl

theorem LastTransition.cons (h : LastTransition (keyEvent s e.1 e.2) presses k) : LastTransition s (e :: presses) k := by
  obtain ⟨before, after, rfl, hqualifies, hafter⟩ := h
  exact ⟨e :: before, after, rfl, hqualifies, hafter⟩

/-- A run of events has no transition, or it has a last one. -/
theorem noTransition_or_lastTransition (s : State) (presses : List (Key × Bool)) :
    NoTransition s presses ∨ ∃ k, LastTransition s presses k := by
  induction presses generalizing s with
  | nil => exact .inl (noTransition_nil s)
  | cons e presses ih =>
    rcases ih (keyEvent s e.1 e.2) with hnone | ⟨k, hlast⟩
    · by_cases hfirst : qualifies s e
      · obtain ⟨k, pressed⟩ := e
        obtain rfl : pressed = true := hfirst.1
        exact .inr ⟨k, [], presses, rfl, hfirst, hnone⟩
      · exact .inl (noTransition_cons.mpr ⟨hfirst, hnone⟩)
    · exact .inr ⟨k, hlast.cons⟩

theorem NoTransition.lastKey_eq (h : NoTransition s presses) : (keysAfter s presses).lastKey = s.lastKey := by
  induction presses generalizing s with
  | nil => rfl
  | cons e presses ih =>
    obtain ⟨hfirst, hrest⟩ := noTransition_cons.mp h
    exact (ih hrest).trans (keyEvent_lastKey_of_not_qualifies hfirst)

/-- The transition puts its key in the slot, and what follows it leaves the slot alone. -/
theorem LastTransition.lastKey_eq (h : LastTransition s presses k) : (keysAfter s presses).lastKey = some k := by
  obtain ⟨before, after, rfl, hqualifies, hafter⟩ := h
  have hnone : NoTransition (keyEvent (keysAfter s before) k true) after := fun a e b hab => by
    simpa only [keysAfter_append, keysAfter_cons] using hafter a e b hab
  rw [keysAfter_append, keysAfter_cons]
  exact hnone.lastKey_eq.trans (keyEvent_lastKey_of_qualifies hqualifies)

end Sys2Proof.Machine

namespace Sys2Proof

open Machine

/-- Settles O32: the run has no transition or a last one, and each case fixes what the slot holds. -/
theorem slotHoldsTheLastTransition : Obligations.SlotHoldsTheLastTransition := by
  intro s presses hempty
  refine ⟨fun k => ⟨fun hk => ?_, LastTransition.lastKey_eq⟩, fun hk => ?_,
    fun hnone => (NoTransition.lastKey_eq hnone).trans hempty⟩
  · rcases noTransition_or_lastTransition s presses with hnone | ⟨k', hlast⟩
    · cases (hnone.lastKey_eq.trans hempty).symm.trans hk
    · obtain rfl : k' = k := Option.some.inj (hlast.lastKey_eq.symm.trans hk)
      exact hlast
  · rcases noTransition_or_lastTransition s presses with hnone | ⟨k, hlast⟩
    · exact hnone
    · cases hlast.lastKey_eq.symm.trans hk

end Sys2Proof
end

section
/-! PROOF. Control flow: the jumps, the skips, and the two instructions of the call stack (41_flow.md R62 to R70). -/

namespace Sys2Proof.Machine

variable (s : State)

theorem onlyPc_setPc (w : PcVal) : onlyPc s (s.setPc w) := ⟨rfl, fun _ => rfl⟩

theorem onlyPc_skipIf (taken : Bool) : onlyPc s (s.skipIf taken) := by
  cases taken with
  | true => exact onlyPc_setPc s _
  | false => exact ⟨rfl, fun _ => rfl⟩

/-- The skip is taken exactly if the spec's comparison holds. -/
theorem State.skipIf_pc_of_iff {taken : Bool} {p : Prop} [Decidable p] (h : taken = true ↔ p) :
    (s.skipIf taken).pc = if p then s.pc + 2#16 else s.pc := by
  rw [State.skipIf_pc]
  exact if_congr h rfl rfl

/-- Both operands are short, so the 16-bit sum of `JumpOffset` does not wrap (41_flow.md R70). -/
theorem jumpOffset_target_toNat (nnn : Addr) (b : RegVal) :
    (addrOperand nnn + byteOperand b).toNat = nnn.toNat + b.toNat := by
  have hnnn : nnn.toNat < 4096 := nnn.isLt
  have hb : b.toNat < 256 := b.isLt
  rw [BitVec.toNat_add, addrOperand_toNat, byteOperand_toNat]
  omega

theorem execRet_underflows (h : s.sp.val = 0) :
    execRet s = .next (faulted s (.callStackUnderflow (s.pc - 2#16))) :=
  execRet_of_empty (Nat.not_lt.mpr h.le)

theorem execCall_overflows (nnn : Addr) (h : s.sp.val = 16) :
    execCall nnn s = .next (faulted s (.callStackOverflow (s.pc - 2#16))) :=
  execCall_of_full nnn (Nat.not_lt.mpr h.ge)

theorem State.push_stack_same (w : PcVal) (h : s.sp.val < 16) : (s.push w h).stack[s.sp.val] = w :=
  Vector.getElem_set_self h

theorem State.push_stack_other (w : PcVal) (h : s.sp.val < 16) {k : Fin 16} (hk : k.val ≠ s.sp.val) :
    (s.push w h).stack[k] = s.stack[k] :=
  Vector.getElem_set_ne h k.isLt hk.symm

/-- A pop gives the entry pushed last and leaves its dead copy behind, whatever `pc` is in between. -/
theorem State.pop_push (w between : PcVal) (h : s.sp.val < 16) :
    ((s.push w h).setPc between).pop (Nat.succ_pos _) =
      (w, { s with stack := (s.push w h).stack, pc := between }) :=
  Prod.ext (s.push_stack_same w h) rfl

/-- `Return` on a state with an entry just pushed goes to that entry (41_flow.md R63). -/
theorem execRet_push (w between : PcVal) (h : s.sp.val < 16) :
    execRet ((s.push w h).setPc between) = .next { s with stack := (s.push w h).stack, pc := w } := by
  have hpos : 0 < ((s.push w h).setPc between).sp.val := Nat.succ_pos _
  rw [execRet_of_pos hpos, State.pop_push]
  rfl

end Sys2Proof.Machine

namespace Sys2Proof

open Machine

/-- Settles O9: the return pops the entry the call pushed, which stays behind as a dead one. -/
theorem returnUndoesCall : Obligations.ReturnUndoesCall := by
  intro s nnn between h
  have hcall := execCall_of_lt nnn h
  have hret := execRet_push s s.pc between h
  have hlive (k : Fin 16) (hk : k.val < s.sp.val) : (s.push s.pc h).stack[k] = s.stack[k] :=
    s.push_stack_other s.pc h hk.ne
  exact ⟨_, _, hcall, hret, rfl, rfl, hlive, rfl⟩

/-- Settles O5: the arm of `Sys` answers its own state. -/
theorem sysChangesNothing : Obligations.SysChangesNothing := fun _ _ => rfl

/-- Settles O6: the two branches of `Return`, on `sp`. -/
theorem returnPopsOrUnderflows : Obligations.ReturnPopsOrUnderflows := fun s =>
  ⟨fun h => ⟨_, execRet_of_pos h, rfl, rfl, rfl, rfl, fun _ => rfl⟩, execRet_underflows s⟩

/-- Settles O7: the operand is widened without change. -/
theorem jumpSetsPc : Obligations.JumpSetsPc := fun s nnn =>
  ⟨_, rfl, addrOperand_toNat nnn, onlyPc_setPc s _⟩

/-- Settles O8: the two branches of `Call`, on `sp`. -/
theorem callPushesOrOverflows : Obligations.CallPushesOrOverflows := fun s nnn =>
  ⟨fun h => ⟨_, execCall_of_lt nnn h, rfl, addrOperand_toNat nnn, s.push_stack_same s.pc h,
    fun _ => s.push_stack_other s.pc h, rfl, fun _ => rfl⟩, execCall_overflows s nnn⟩

/-- Settles O10: both are one conditional skip, on the two comparisons with `kk`. -/
theorem immediateSkips : Obligations.ImmediateSkips := fun s _ _ =>
  ⟨⟨_, rfl, s.skipIf_pc_of_iff beq_iff_eq, onlyPc_skipIf s _⟩,
    ⟨_, rfl, s.skipIf_pc_of_iff bne_iff_ne, onlyPc_skipIf s _⟩⟩

/-- Settles O11: both are one conditional skip, on the two comparisons of registers. -/
theorem registerSkips : Obligations.RegisterSkips := fun s _ _ =>
  ⟨⟨_, rfl, s.skipIf_pc_of_iff beq_iff_eq, onlyPc_skipIf s _⟩,
    ⟨_, rfl, s.skipIf_pc_of_iff bne_iff_ne, onlyPc_skipIf s _⟩⟩

/-- Settles O12: the sum of the widened operands is exact. -/
theorem jumpOffsetAddsRegisterZero : Obligations.JumpOffsetAddsRegisterZero := fun s nnn =>
  ⟨_, rfl, jumpOffset_target_toNat nnn _, onlyPc_setPc s _⟩

end Sys2Proof
end

section
/-! PROOF. The ALU and the register file (42_alu.md R72 to R83): a frame and a read rule for the two shapes of register
write, and the byte arithmetic of the model as arithmetic of naturals. -/

namespace Sys2Proof.Machine

variable (s : State) (x y : Reg)

theorem onlyRegs_setV (b : Byte) : onlyRegs s (s.setV x b) := ⟨rfl, fun _ => rfl⟩

theorem onlyRegs_setResultFlag (b : Byte) (flag : Bool) : onlyRegs s (s.setResultFlag x b flag) :=
  ⟨rfl, fun _ => rfl⟩

/-- Every register after a write of one, with the value written in the spec's form. -/
theorem State.getV_setV_eq_ite {b b' : Byte} (hb : b = b') (r : Reg) :
    (s.setV x b).getV r = if r = x then b' else s.getV r := by
  rw [State.getV_setV, hb]
  simp only [eq_comm (a := x)]

/-- Every register after a result and its flag, with both in the spec's form (42_alu.md R71 (d)). -/
theorem State.getV_setResultFlag_eq_ite {b b' f : Byte} {flag : Bool} (hf : flagByte flag = f) (hb : b = b') (r : Reg) :
    (s.setResultFlag x b flag).getV r = if r = 15#4 then f else if r = x then b' else s.getV r := by
  rw [State.getV_setResultFlag, hf, hb]
  simp only [eq_comm (a := x)]

/-- A combination that acts on each bit alone is read off the destination bit by bit. -/
theorem State.getLsbD_getV_setV {b : Byte} {f : Bool → Bool → Bool}
    (hb : ∀ k, b.getLsbD k = f ((s.getV x).getLsbD k) ((s.getV y).getLsbD k)) (k : Nat) :
    ((s.setV x b).getV x).getLsbD k = f ((s.getV x).getLsbD k) ((s.getV y).getLsbD k) := by
  rw [State.getV_setV_same, hb]

/-- A flag decided by a comparison. -/
theorem flagByte_decide (p : Prop) [Decidable p] : flagByte (decide p) = if p then 1#8 else 0#8 :=
  if_congr decide_eq_true_iff rfl rfl

variable (p q : Byte)

/-- R71 (a): byte addition wraps modulo 256. -/
theorem byte_add_eq_ofNat : p + q = BitVec.ofNat 8 ((p.toNat + q.toNat) % 256) := by bv_omega

/-- R71 (a), (b): byte subtraction adds 256 on a borrow. -/
theorem byte_sub_eq_ofNat :
    p - q = if q.toNat ≤ p.toNat then BitVec.ofNat 8 (p.toNat - q.toNat) else BitVec.ofNat 8 (p.toNat + 256 - q.toNat) := by
  split <;> bv_omega

theorem byte_shiftRight_eq_ofNat : p >>> 1 = BitVec.ofNat 8 (p.toNat / 2) := by bv_omega

theorem byte_shiftLeft_eq_ofNat : p <<< 1 = BitVec.ofNat 8 (p.toNat * 2 % 256) := by bv_omega

theorem flagByte_eq_ofNat (flag : Bool) : flagByte flag = BitVec.ofNat 8 flag.toNat := by cases flag <;> rfl

theorem flagByte_lowBitOf : flagByte (lowBitOf p) = BitVec.ofNat 8 (p.toNat % 2) := by
  have hbit : (p.toNat.testBit 0).toNat = p.toNat % 2 := by rw [Nat.toNat_testBit, Nat.pow_zero, Nat.div_one]
  exact (flagByte_eq_ofNat _).trans (congrArg _ hbit)

theorem flagByte_highBitOf : flagByte (highBitOf p) = BitVec.ofNat 8 (p.toNat / 128) := by
  have hlt : p.toNat < 128 * 2 := p.isLt
  have hbit : (p.toNat.testBit 7).toNat = p.toNat / 128 :=
    (Nat.toNat_testBit _ _).trans (Nat.mod_eq_of_lt (Nat.div_lt_of_lt_mul hlt))
  exact (flagByte_eq_ofNat _).trans (congrArg _ hbit)

/-- A masked byte has no bit outside the mask. -/
theorem byte_and_and_not : p &&& q &&& ~~~q = 0#8 := by
  rw [BitVec.and_assoc, BitVec.and_not_self]
  exact BitVec.and_zero

end Sys2Proof.Machine

namespace Sys2Proof

open Machine

/-- Settles O13: one register write each. -/
theorem loadsAndAddImmediate : Obligations.LoadsAndAddImmediate := fun s x _ _ =>
  ⟨⟨_, rfl, s.getV_setV_eq_ite x rfl, onlyRegs_setV s x _⟩,
    ⟨_, rfl, s.getV_setV_eq_ite x (byte_add_eq_ofNat _ _), onlyRegs_setV s x _⟩,
    ⟨_, rfl, s.getV_setV_eq_ite x rfl, onlyRegs_setV s x _⟩⟩

/-- Settles O14: one register write each, of a value combined bit by bit. -/
theorem logicBitByBit : Obligations.LogicBitByBit := fun s x y =>
  ⟨⟨_, rfl, onlyRegs_setV s x _, fun _ hr => s.getV_setV_other _ hr.symm,
      s.getLsbD_getV_setV x y fun _ => BitVec.getLsbD_or⟩,
    ⟨_, rfl, onlyRegs_setV s x _, fun _ hr => s.getV_setV_other _ hr.symm,
      s.getLsbD_getV_setV x y fun _ => BitVec.getLsbD_and⟩,
    ⟨_, rfl, onlyRegs_setV s x _, fun _ hr => s.getV_setV_other _ hr.symm,
      s.getLsbD_getV_setV x y fun _ => BitVec.getLsbD_xor⟩⟩

/-- Settles O15: the wrapped sum, then the carry. -/
theorem addRegCarry : Obligations.AddRegCarry := fun s x _ =>
  ⟨_, rfl, s.getV_setResultFlag_eq_ite x (flagByte_decide _) (byte_add_eq_ofNat _ _), onlyRegs_setResultFlag s x _ _⟩

/-- Settles O16: the wrapped difference, then the not-borrow. -/
theorem subRegNotBorrow : Obligations.SubRegNotBorrow := fun s x _ =>
  ⟨_, rfl, s.getV_setResultFlag_eq_ite x (flagByte_decide _) (byte_sub_eq_ofNat _ _), onlyRegs_setResultFlag s x _ _⟩

/-- Settles O17: the difference of O16 with its operands exchanged. -/
theorem subnRegNotBorrow : Obligations.SubnRegNotBorrow := fun s x _ =>
  ⟨_, rfl, s.getV_setResultFlag_eq_ite x (flagByte_decide _) (byte_sub_eq_ofNat _ _), onlyRegs_setResultFlag s x _ _⟩

/-- Settles O18: the half and the wrapped double, then the bit shifted out. -/
theorem shiftsByOne : Obligations.ShiftsByOne := fun s x =>
  ⟨⟨_, rfl, onlyRegs_setResultFlag s x _ _,
      s.getV_setResultFlag_eq_ite x (flagByte_lowBitOf _) (byte_shiftRight_eq_ofNat _)⟩,
    ⟨_, rfl, onlyRegs_setResultFlag s x _ _,
      s.getV_setResultFlag_eq_ite x (flagByte_highBitOf _) (byte_shiftLeft_eq_ofNat _)⟩⟩

/-- Settles O19: one register write of a masked byte, on a state whose counter has moved on. -/
theorem randomMasksADraw : Obligations.RandomMasksADraw := by
  intro s x kk
  have hread := ({ s with draws := s.draws + 1 } : State).getV_setV_eq_ite x (b := Config.randomByte s.draws &&& kk) rfl
  refine ⟨_, rfl, hread, ?_, rfl, fun _ => rfl⟩
  rw [State.getV_setV_same]
  exact byte_and_and_not _ _

end Sys2Proof
end

section
/-! PROOF. The index register and the memory instructions (43_index_memory.md R84 to R89): the three writes of `I`, and
for the three instructions of data memory both answers of the bounds check, the bytes or registers moved, and the
frame. -/

namespace Sys2Proof.Machine

variable (s : State) (x : Reg)

/-! ### The index register -/

theorem onlyIndex_setI (a : IndexVal) : onlyIndex s (s.setI a) := ⟨rfl, fun _ => rfl⟩

/-- The sum of `AddIndex` wraps modulo 65536 (R85). -/
theorem addIndex_toNat (i : IndexVal) (b : RegVal) : (i + byteOperand b).toNat = (i.toNat + b.toNat) % 65536 := by
  rw [BitVec.toNat_add, byteOperand_toNat]
  rfl

/-- Five times a byte fits 16 bits: the product of `LoadFontAddr` does not wrap (R86). -/
theorem fontAddr_toNat (b : RegVal) : (byteOperand b * 5#16).toNat = b.toNat * 5 := by
  have hb : b.toNat < 256 := b.isLt
  rw [BitVec.toNat_mul, byteOperand_toNat]
  exact Nat.mod_eq_of_lt (by change b.toNat * 5 < 65536; omega)

/-! ### The bounds check by the last address accessed (20_memory.md R34) -/

theorem withData_of_le {s : State} {last : Nat} (rest : Result) (h : s.i.toNat + last ≤ 4095) :
    withData s (last + 1) rest = rest :=
  withData_fits rest ((s.dataFits_iff _).mpr (.inr (Nat.lt_succ_of_le h)))

theorem State.firstBadAddr_eq_ofNat : s.firstBadAddr = BitVec.ofNat 16 (max s.i.toNat 4096) := by
  rw [← State.firstBadAddr_toNat, BitVec.ofNat_toNat, BitVec.setWidth_eq]

/-- Past address 4095 the fault is taken, with the first offending address (60_exceptions.md R106). -/
theorem withData_of_gt {s : State} {last : Nat} (rest : Result) (h : 4095 < s.i.toNat + last) :
    withData s (last + 1) rest =
      .next (faulted s (.dataAddressOutOfBounds (BitVec.ofNat 16 (max s.i.toNat 4096)) (s.pc - 2#16))) := by
  have hfits : s.dataFits (last + 1) = false := by
    rw [← Bool.not_eq_true, State.dataFits_iff]
    omega
  rw [withData_faults rest hfits, State.firstBadAddr_eq_ofNat]
  rfl

/-! ### Bytes stored -/

/-- A run of byte writes from `I` on changes nothing outside it. -/
theorem onlyMemory_writeBytes (bs : List Byte) :
    onlyMemory s { s with mem := s.mem.writeBytes (s.effAddr 0) bs } s.i.toNat bs.length :=
  ⟨rfl, fun _ hb => s.mem.read_writeBytes_outside _ bs hb⟩

theorem Memory.read_writeBytes_getElem (m : Memory) (a : Nat) (bs : List Byte) {k : Nat} (h : k < bs.length) :
    (m.writeBytes a bs).read (a + k) = bs[k] := by
  rw [Memory.read_writeBytes, dif_pos (by omega)]
  simp only [Nat.add_sub_cancel_left]

@[simp] theorem length_bcdDigits (b : RegVal) : (bcdDigits b).length = 3 := rfl

theorem bcdDigits_toNat (b : RegVal) :
    (bcdDigits b)[0].toNat = b.toNat / 100 ∧ (bcdDigits b)[1].toNat = b.toNat / 10 % 10 ∧
      (bcdDigits b)[2].toNat = b.toNat % 10 := by
  have hb : b.toNat < 256 := b.isLt
  refine ⟨Nat.mod_eq_of_lt ?_, Nat.mod_eq_of_lt ?_, Nat.mod_eq_of_lt ?_⟩ <;> omega

/-- What `StoreBCD(x)` does where `I .. I + 2` lie in memory (R87). -/
theorem execStoreBcd_fits {s : State} {x : Reg} (h : s.i.toNat + 2 ≤ 4095) :
    execStoreBcd x s = .next { s with mem := s.mem.writeBytes (s.effAddr 0) (bcdDigits (s.getV x)) } :=
  withData_of_le _ h

/-! ### Registers loaded -/

theorem State.getV_loadedRegs (r : Reg) :
    State.getV { s with v := s.loadedRegs x } r =
      if r.toNat ≤ x.toNat then s.mem.read (s.i.toNat + r.toNat) else s.getV r :=
  s.getElem_loadedRegs x r.toNat r.isLt

theorem onlyRegs_v (v : Vector RegVal Config.numRegs) : onlyRegs s { s with v := v } := ⟨rfl, fun _ => rfl⟩

/-- What `LoadRegs(x)` does where `I .. I + x` lie in memory (R89). -/
theorem execLoadRegs_fits {s : State} {x : Reg} (h : s.i.toNat + x.toNat ≤ 4095) :
    execLoadRegs x s = .next { s with v := s.loadedRegs x } :=
  withData_of_le _ h

end Sys2Proof.Machine

namespace Sys2Proof

open Machine

/-- Settles O26: the stored registers lie one per address from `I` on, which is where the load, with the same `I`, reads
them. -/
theorem loadRegsUndoesStoreRegs : Obligations.LoadRegsUndoesStoreRegs := by
  intro s x later hfits
  refine ⟨_, _, execStoreRegs_fits hfits, execLoadRegs_fits hfits, fun r => ?_⟩
  rw [State.getV_loadedRegs]
  split
  · next hr => exact s.read_writeBytes_regsUpTo hr
  · rfl

/-- Settles O22: one write of `I` each, of a value that only `AddIndex` has to wrap. -/
theorem indexRegisterWrites : Obligations.IndexRegisterWrites := fun s _ nnn =>
  ⟨⟨_, rfl, addrOperand_toNat nnn, onlyIndex_setI s _⟩,
    ⟨_, rfl, addIndex_toNat _ _, onlyIndex_setI s _⟩,
    ⟨_, rfl, fontAddr_toNat _, onlyIndex_setI s _⟩⟩

/-- Settles O23: the two answers of the bounds check; where it passes, the digits lie one per address. -/
theorem storeBcdDigitsOrFaults : Obligations.StoreBcdDigitsOrFaults := by
  intro s x
  obtain ⟨hhundreds, htens, hones⟩ := bcdDigits_toNat (s.getV x)
  have hread {k : Nat} (hk : k < 3) := s.mem.read_writeBytes_getElem (s.effAddr 0) (bcdDigits (s.getV x)) hk
  refine ⟨fun hfits => ⟨_, execStoreBcd_fits hfits, ?_, ?_, ?_, onlyMemory_writeBytes s _⟩, withData_of_gt _⟩
  · exact (congrArg BitVec.toNat (hread (k := 0) (by decide))).trans hhundreds
  · exact (congrArg BitVec.toNat (hread (k := 1) (by decide))).trans htens
  · exact (congrArg BitVec.toNat (hread (k := 2) (by decide))).trans hones

/-- Settles O24: the two answers of the bounds check; where it passes, the registers lie one per address. -/
theorem storeRegsOrFaults : Obligations.StoreRegsOrFaults := fun s x =>
  ⟨fun hfits => ⟨_, execStoreRegs_fits hfits, fun _ => s.read_writeBytes_regsUpTo,
    s.length_regsUpTo x ▸ onlyMemory_writeBytes s _⟩, withData_of_gt _⟩

/-- Settles O25: the two answers of the bounds check; where it passes, each register up to `x` is read from memory. -/
theorem loadRegsOrFaults : Obligations.LoadRegsOrFaults := fun s x =>
  ⟨fun hfits => ⟨_, execLoadRegs_fits hfits, s.getV_loadedRegs x, onlyRegs_v s _⟩, withData_of_gt _⟩

end Sys2Proof
end

section
/-! PROOF. The display (44_display.md R90 to R93): a blit inverts the pixels under the sprite's set bits and reports
whether one of them was filled. This relation is composed position by position, row by row; no position of a sprite
meets another, as a row has 8 of 64 columns and a sprite at most 15 of 32 rows. -/

namespace Sys2Proof.Machine

/-! ### A set of pixels inverted, with the collision -/

/-- From `a` to `b` the pixels of `P` are inverted and no other one, and the collision is sticky: it was there, or a
pixel of `P` was filled (44_display.md R92, R93). -/
structure Inverts (P : Fin 64 → Fin 32 → Prop) (a b : Display × Bool) : Prop where
  inside : ∀ c r, P c r → b.1.get c r = !a.1.get c r
  outside : ∀ c r, ¬ P c r → b.1.get c r = a.1.get c r
  collided : b.2 = true ↔ a.2 = true ∨ ∃ c r, P c r ∧ a.1.get c r = true

namespace Inverts

variable {P Q : Fin 64 → Fin 32 → Prop} {a b c : Display × Bool}

theorem nothing (h : ∀ col r, ¬ P col r) : Inverts P a a where
  inside col r hp := absurd hp (h col r)
  outside _ _ _ := rfl
  collided := by simp [h]

theorem of_iff (h : Inverts P a b) (hiff : ∀ col r, Q col r ↔ P col r) : Inverts Q a b where
  inside col r hq := h.inside col r ((hiff col r).mp hq)
  outside col r hq := h.outside col r (mt (hiff col r).mpr hq)
  collided := by simp only [h.collided, hiff]

/-- Disjoint sets are inverted one after the other: the second finds its pixels as they were at first. -/
theorem union (hab : Inverts P a b) (hbc : Inverts Q b c) (hdisjoint : ∀ col r, P col r → ¬ Q col r) :
    Inverts (fun col r => P col r ∨ Q col r) a c where
  inside col r
    | .inl hp => (hbc.outside col r (hdisjoint col r hp)).trans (hab.inside col r hp)
    | .inr hq => by rw [hbc.inside col r hq, hab.outside col r fun hp => hdisjoint col r hp hq]
  outside col r hnot :=
    (hbc.outside col r fun hq => hnot (.inr hq)).trans (hab.outside col r fun hp => hnot (.inl hp))
  collided := by
    have hkept (col r) : Q col r ∧ b.1.get col r = true ↔ Q col r ∧ a.1.get col r = true :=
      and_congr_right fun hq => by rw [hab.outside col r fun hp => hdisjoint col r hp hq]
    simp only [hbc.collided, hab.collided, hkept, or_and_right, exists_or, or_assoc]

/-- The same set inverted again brings every pixel back. -/
theorem twice {flag : Bool} (hab : Inverts P a b) (hbc : Inverts P (b.1, flag) c) (col : Fin 64) (r : Fin 32) :
    c.1.get col r = a.1.get col r := by
  by_cases hp : P col r
  · rw [hbc.inside col r hp, hab.inside col r hp, Bool.not_not]
  · exact (hbc.outside col r hp).trans (hab.outside col r hp)

end Inverts

/-! ### The blit, from one position to all rows -/

theorem wrapCol_val (c : Nat) : (wrapCol c).val = c % 64 := rfl

theorem wrapRow_val (r : Nat) : (wrapRow r).val = r % 32 := rfl

theorem blitPixel_inverts (c₀ : Fin 64) (r₀ : Fin 32) (bit : Bool) (acc : Display × Bool) :
    Inverts (fun c r => r₀ = r ∧ c₀ = c ∧ bit = true) acc (blitPixel c₀ r₀ bit acc) where
  inside := by
    rintro c r ⟨rfl, rfl, rfl⟩
    simp [blitPixel_get]
  outside c r hnot := by
    rw [blitPixel_get]
    split
    · next hat =>
      obtain ⟨rfl, rfl⟩ := hat
      have hbit : bit = false := by simpa using hnot
      rw [hbit, Bool.xor_false]
    · rfl
  collided := by
    simp [blitPixel_collided, and_comm]

/-- One of the first `k` bits of a sprite row at column `sx` is set and falls on column `c` (R92's inner loop). -/
def RowCovers (sx : Nat) (row : Byte) (k : Nat) (c : Fin 64) : Prop :=
  ∃ ix < k, wrapCol (sx + ix) = c ∧ spriteBit row ix = true

theorem rowCovers_succ (sx : Nat) (row : Byte) (k : Nat) (c : Fin 64) :
    RowCovers sx row (k + 1) c ↔ RowCovers sx row k c ∨ (wrapCol (sx + k) = c ∧ spriteBit row k = true) :=
  Nat.exists_lt_succ_right

/-- Fewer than 64 columns to the left of a position do not wrap around to it. -/
theorem not_rowCovers_next {sx : Nat} {row : Byte} {k : Nat} (hk : k < 64) : ¬ RowCovers sx row k (wrapCol (sx + k)) := by
  rintro ⟨ix, hix, hcol, -⟩
  have hval := congrArg Fin.val hcol
  rw [wrapCol_val, wrapCol_val] at hval
  omega

/-- R92's inner loop up to its `k`-th position. -/
theorem foldl_blitPixel_inverts (sx : Nat) (r₀ : Fin 32) (row : Byte) (acc : Display × Bool) {k : Nat} (hk : k ≤ 64) :
    Inverts (fun c r => r₀ = r ∧ RowCovers sx row k c) acc
      ((List.range k).foldl (fun acc ix => blitPixel (wrapCol (sx + ix)) r₀ (spriteBit row ix) acc) acc) := by
  induction k with
  | zero => exact .nothing fun _ _ ⟨_, _, hix, _⟩ => absurd hix (Nat.not_lt_zero _)
  | succ k ih =>
    rw [List.range_succ, List.foldl_append]
    refine ((ih (Nat.le_of_lt hk)).union (blitPixel_inverts (wrapCol (sx + k)) r₀ (spriteBit row k) _) ?_).of_iff ?_
    · rintro c r ⟨-, hbefore⟩ ⟨-, rfl, -⟩
      exact not_rowCovers_next hk hbefore
    · intro c r
      rw [rowCovers_succ, and_or_left]

theorem blitRow_inverts (sx : Nat) (r₀ : Fin 32) (row : Byte) (acc : Display × Bool) :
    Inverts (fun c r => r₀ = r ∧ RowCovers sx row 8 c) acc (blitRow sx r₀ row acc) :=
  foldl_blitPixel_inverts sx r₀ row acc (by decide)

/-- A set bit of one of the sprite rows, the first of them at screen row `y`, falls on the pixel (R92's outer loop). -/
def RowsCover (sx y : Nat) (rows : List Byte) (c : Fin 64) (r : Fin 32) : Prop :=
  ∃ iy row, rows[iy]? = some row ∧ wrapRow (y + iy) = r ∧ RowCovers sx row 8 c

theorem not_rowsCover_nil (sx y : Nat) (c : Fin 64) (r : Fin 32) : ¬ RowsCover sx y [] c r := by
  rintro ⟨iy, row, hrow, -⟩
  cases hrow

theorem rowsCover_cons (sx y : Nat) (row : Byte) (rows : List Byte) (c : Fin 64) (r : Fin 32) :
    RowsCover sx y (row :: rows) c r ↔ (wrapRow y = r ∧ RowCovers sx row 8 c) ∨ RowsCover sx (y + 1) rows c r := by
  constructor
  · rintro ⟨_ | iy, row', hrow, hr, hc⟩
    · cases hrow
      exact .inl ⟨hr, hc⟩
    · exact .inr ⟨iy, row', hrow, by rwa [Nat.add_right_comm], hc⟩
  · rintro (⟨hr, hc⟩ | ⟨iy, row', hrow, hr, hc⟩)
    · exact ⟨0, row, rfl, hr, hc⟩
    · exact ⟨iy + 1, row', hrow, by rwa [Nat.add_right_comm] at hr, hc⟩

/-- Fewer than 32 rows below a screen row do not wrap around to it. -/
theorem not_rowsCover_above {sx y : Nat} {rows : List Byte} (hlength : rows.length < 32) (c : Fin 64) :
    ¬ RowsCover sx (y + 1) rows c (wrapRow y) := by
  rintro ⟨iy, row, hrow, hr, -⟩
  obtain ⟨hiy, -⟩ := List.getElem?_eq_some_iff.mp hrow
  have hval := congrArg Fin.val hr
  rw [wrapRow_val, wrapRow_val] at hval
  omega

theorem blitRows_inverts (sx y : Nat) (rows : List Byte) (acc : Display × Bool) (hlength : rows.length ≤ 32) :
    Inverts (RowsCover sx y rows) acc (blitRows sx y rows acc) := by
  induction rows generalizing y acc with
  | nil => exact .nothing (not_rowsCover_nil sx y)
  | cons row rows ih =>
    refine ((blitRow_inverts sx (wrapRow y) row acc).union (ih (y + 1) _ (Nat.le_of_lt hlength)) ?_).of_iff
      (rowsCover_cons sx y row rows)
    rintro c r ⟨rfl, -⟩
    exact not_rowsCover_above hlength c

/-! ### The sprite of `Draw` -/

variable {s t : State} {x y : Reg} {n : Nibble}

theorem State.getElem?_spriteRows {iy : Nat} {row : Byte} :
    (s.spriteRows n)[iy]? = some row ↔ iy < n.toNat ∧ s.mem.read (s.i.toNat + iy) = row := by
  simp [State.spriteRows, List.getElem?_eq_some_iff, Memory.getElem_readBytes, State.effAddr]

/-- The positions of the blit are the ones of the sprite (R91, R92). -/
theorem State.spriteCovers_iff (c : Fin 64) (r : Fin 32) :
    s.spriteCovers x y n c r ↔ RowsCover (s.drawCol x) (s.drawRow y) (s.spriteRows n) c r := by
  constructor
  · rintro ⟨iy, ix, hiy, hix, hcol, hrow, hbit⟩
    exact ⟨iy, _, State.getElem?_spriteRows.mpr ⟨hiy, rfl⟩, Fin.ext hrow, ix, hix, Fin.ext hcol, hbit⟩
  · rintro ⟨iy, row, hget, hrow, ix, hix, hcol, hbit⟩
    obtain ⟨hiy, rfl⟩ := State.getElem?_spriteRows.mp hget
    exact ⟨iy, ix, hiy, hix, congrArg Fin.val hcol, congrArg Fin.val hrow, hbit⟩

/-- The display and the collision that `Draw(x, y, n)` computes. -/
def State.blitted (s : State) (x y : Reg) (n : Nibble) : Display × Bool :=
  blit s.px (s.drawCol x) (s.drawRow y) (s.spriteRows n)

theorem State.blitted_inverts (s : State) (x y : Reg) (n : Nibble) :
    Inverts (s.spriteCovers x y n) (s.px, false) (s.blitted x y n) := by
  have hlength : (s.spriteRows n).length ≤ 32 := by
    have hn : n.toNat < 16 := n.isLt
    rw [State.spriteRows, Memory.length_readBytes]
    omega
  exact (blitRows_inverts _ _ _ _ hlength).of_iff State.spriteCovers_iff

/-- The state after a `Draw(x, y, n)` that completes. -/
def State.drawn (s : State) (x y : Reg) (n : Nibble) : State :=
  { s with px := (s.blitted x y n).1 }.setFlag (s.blitted x y n).2

/-- VF is 1 exactly if a covered pixel was filled (R93). -/
theorem State.drawn_vf_eq_one_iff :
    (s.drawn x y n).vf = 1#8 ↔ ∃ c r, s.spriteCovers x y n c r ∧ s.px.get c r = true := by
  rw [State.drawn, State.vf_setFlag]
  exact (flagByte_eq_one_iff _).trans ((s.blitted_inverts x y n).collided.trans (by simp))

theorem State.drawn_vf_eq_zero (hmiss : ¬ ∃ c r, s.spriteCovers x y n c r ∧ s.px.get c r = true) :
    (s.drawn x y n).vf = 0#8 := by
  have hne := mt State.drawn_vf_eq_one_iff.mp hmiss
  rw [State.drawn, State.vf_setFlag] at hne ⊢
  exact (flagByte_zero_or_one _).resolve_right hne

theorem State.drawn_getV_other {r : Reg} (hr : r ≠ 15#4) : (s.drawn x y n).getV r = s.getV r :=
  (State.getV_setFlag ..).trans (if_neg hr)

/-- The bounds check, then the drawing (R91). -/
theorem exec_draw (s : State) (x y : Reg) (n : Nibble) :
    exec (.draw x y n) s = withData s n.toNat (.next (s.drawn x y n)) := rfl

theorem exec_draw_fits (h : s.dataFits n.toNat = true) : exec (.draw x y n) s = .next (s.drawn x y n) :=
  withData_fits _ h

/-- A `Draw` that has not halted has passed the bounds check. -/
theorem draw_of_live (h : exec (.draw x y n) s = .next t) (hlive : t.live) :
    s.dataFits n.toNat = true ∧ t = s.drawn x y n := by
  cases hfits : s.dataFits n.toNat with
  | true =>
    rw [exec_draw_fits hfits] at h
    cases h
    exact ⟨rfl, rfl⟩
  | false =>
    rw [exec_draw, withData_faults _ hfits] at h
    cases h
    cases hlive

/-- A `Draw` whose position is not read from VF leaves its own sprite in place. -/
theorem State.drawn_spriteCovers (hx : x ≠ 15#4) (hy : y ≠ 15#4) :
    (s.drawn x y n).spriteCovers x y n = s.spriteCovers x y n := by
  funext c r
  simp only [State.spriteCovers, State.drawn_getV_other hx, State.drawn_getV_other hy]
  rfl

end Sys2Proof.Machine

namespace Sys2Proof

open Machine

/-- Settles O28: the two answers of the bounds check; where it passes, the blit inverts what the sprite covers. -/
theorem drawXorsWithCollision : Obligations.DrawXorsWithCollision := by
  intro s x y n
  have hzero : n.toNat = 0 ↔ n = 0#4 := BitVec.toNat_inj (y := 0#4)
  constructor
  · intro hbound
    have hfits : s.dataFits n.toNat = true :=
      (s.dataFits_iff _).mpr (hbound.imp hzero.mpr Nat.lt_succ_of_le)
    have hinverts := s.blitted_inverts x y n
    exact ⟨_, exec_draw_fits hfits, hinverts.inside, hinverts.outside, State.drawn_vf_eq_one_iff.mpr,
      State.drawn_vf_eq_zero, fun _ => State.drawn_getV_other, rfl, fun _ => rfl⟩
  · rintro ⟨hn, hbound⟩
    obtain ⟨last, hlast⟩ := Nat.exists_eq_succ_of_ne_zero (mt hzero.mp hn)
    rw [hlast] at hbound
    rw [exec_draw, hlast]
    exact withData_of_gt _ hbound

/-- Settles O29: the second draw inverts the same pixels, and on a blank display they are the filled ones. -/
theorem drawingTwiceRestores : Obligations.DrawingTwiceRestores := by
  intro s t u x y n hx hy ht hlive hu
  obtain ⟨hfits, rfl⟩ := draw_of_live ht hlive
  have hu' : exec (.draw x y n) (s.drawn x y n) = .next ((s.drawn x y n).drawn x y n) := exec_draw_fits hfits
  obtain rfl : (s.drawn x y n).drawn x y n = u := Host.Outcome.next.inj (hu'.symm.trans hu)
  have hfirst := s.blitted_inverts x y n
  have hsecond := (s.drawn x y n).blitted_inverts x y n
  rw [State.drawn_spriteCovers hx hy] at hsecond
  refine ⟨hfirst.twice hsecond, fun hblank => ⟨State.drawn_vf_eq_zero ?_, ?_⟩⟩
  · rintro ⟨c, r, -, hfilled⟩
    exact Bool.false_ne_true ((hblank c r).symm.trans hfilled)
  · rw [State.drawn_vf_eq_one_iff, State.drawn_spriteCovers hx hy]
    refine exists₂_congr fun c r => and_iff_left_of_imp fun hcovers => ?_
    exact (hfirst.inside c r hcovers).trans (congrArg _ (hblank c r))

/-- Settles O27: the blank display has no filled pixel. -/
theorem clearBlanksTheDisplay : Obligations.ClearBlanksTheDisplay := fun _ =>
  ⟨_, rfl, Display.get_blank, rfl, fun _ => rfl⟩

end Sys2Proof
end

section
/-! PROOF. The keypad and timer instructions (45_keypad_timers.md R94 to R99): both key skips are one conditional skip
behind the range check. -/

namespace Sys2Proof.Machine

variable (s : State) (x : Reg)

/-- In range, the key a byte names stands at the byte's own value (10_state.md R19). -/
theorem State.getKey_setWidth {b : RegVal} (h : b.toNat < 16) : s.getKey (b.setWidth 4) = s.key[b.toNat]'h := by
  have hindex : (b.setWidth 4).toNat = b.toNat := by rw [BitVec.toNat_setWidth, Nat.mod_eq_of_lt h]
  simp only [State.getKey, hindex]

/-- In range, a skip decided by the key `V[x]` names completes with `pc` alone changed (45_keypad_timers.md R94, R95). -/
theorem withKey_skipIf {p : Prop} [Decidable p] (taken : Bool → Bool) (h : (s.getV x).toNat < 16)
    (hp : taken (s.key[(s.getV x).toNat]'h) = true ↔ p) :
    ∃ t, withKey s x (fun k => .next (s.skipIf (taken (s.getKey k)))) = .next t ∧
      t.pc = (if p then s.pc + 2#16 else s.pc) ∧ onlyPc s t := by
  rw [← s.getKey_setWidth h] at hp
  exact ⟨_, withKey_of_lt _ h, s.skipIf_pc_of_iff hp, onlyPc_skipIf s _⟩

end Sys2Proof.Machine

namespace Sys2Proof

open Machine

/-- Settles O30: the two answers of the range check; where it passes, the skips are decided by the key and by its
negation. -/
theorem keySkipsOrFault : Obligations.KeySkipsOrFault := fun s x =>
  ⟨fun h => ⟨withKey_skipIf s x id h Iff.rfl, withKey_skipIf s x (!·) h (Bool.not_eq_true' _).to_iff⟩,
    fun h => ⟨withKey_of_ge _ h, withKey_of_ge _ h⟩⟩

/-- Settles O33: one register write, and one write of each timer. -/
theorem timerMoves : Obligations.TimerMoves := fun s x =>
  ⟨⟨_, rfl, s.getV_setV_eq_ite x rfl, onlyRegs_setV s x _⟩, ⟨_, rfl, rfl, fun _ => rfl⟩, ⟨_, rfl, rfl, fun _ => rfl⟩⟩

end Sys2Proof
end

section
/-! PROOF. The events of 40_cycle.md R52 in a state that has not halted and in one that has: the timers' count and the
keypad (60_exceptions.md R115, R116), the faults of the cycle (R102, R103), that every fault is precise (R112), and that
`reset` alone leaves `HALTED` (R113). -/

namespace Sys2Proof.Machine

variable {s : State}

/-! ### `tick` and `set_key` -/

theorem present_tick_of_live (h : s.live) : present .tick s = .next (tickTimers s) :=
  present_of_enabled ((Bool.not_eq_true' _).mpr h)

theorem present_setKey_of_live (h : s.live) (k : Key) (pressed : Bool) :
    present (.setKey k pressed) s = .next (keyEvent s k pressed) :=
  present_of_enabled ((Bool.not_eq_true' _).mpr h)

theorem byte_sub_one_toNat {t : BitVec 8} (h : t ≠ 0#8) : (t - 1#8).toNat = t.toNat - 1 := by bv_omega

/-- The clamp at zero is the truncated subtraction of naturals (60_exceptions.md R115). -/
theorem countDown_toNat (t : TimerVal) : (countDown t).toNat = t.toNat - 1 := by
  unfold countDown
  split
  · next h => rw [h]; rfl
  · next h => exact byte_sub_one_toNat h

theorem keyEvent_press_of_up {k : Key} (h : s.getKey k = false) :
    keyEvent s k true = { s.setKeyBit k true with lastKey := some k } := by
  simp [keyEvent, h]

theorem keyEvent_press_of_down {k : Key} (h : s.getKey k = true) : keyEvent s k true = s := by
  simp [keyEvent, h]

theorem keyEvent_release (s : State) (k : Key) : keyEvent s k false = s.setKeyBit k false := rfl

theorem State.getKey_setKeyBit_eq_ite (s : State) (k : Key) (b : Bool) (j : Key) :
    (s.setKeyBit k b).getKey j = if j = k then b else s.getKey j := by
  simp only [State.getKey_setKeyBit, eq_comm (a := k)]

theorem keyEvent_run (s : State) (k : Key) (pressed : Bool) : (keyEvent s k pressed).run = s.run := by
  cases pressed with
  | false => rfl
  | true =>
    cases h : s.getKey k with
    | false => rw [keyEvent_press_of_up h]; rfl
    | true => rw [keyEvent_press_of_down h]

/-! ### The two faults of the cycle -/

theorem cycle_of_not_fetchable (h : fetchable s.pc = false) :
    cycle s = .next (s.markStarted.halt (.programCounterOutOfBounds s.pc)) := by
  simp [cycle, h]

theorem cycle_of_not_decodes (hpc : fetchable s.pc = true) (hword : decodeWord s.fetchWord = none) :
    cycle s = .next (s.markStarted.halt (.unsupportedOpcode s.fetchWord s.pc)) := by
  simp only [cycle, if_pos hpc, hword]

/-! ### A fault is precise (60_exceptions.md R112) -/

/-- If `t` is halted, it is `s` with the fault record and the bit of 70_reset_and_hazards.md R124, and nothing else. -/
def HaltsPrecisely (s t : State) : Prop := ∀ f, t.run = .halted f → t = s.markStarted.halt f

theorem haltsPrecisely_halt (s : State) (f : Fault) : HaltsPrecisely s (s.markStarted.halt f) := by
  rintro g ⟨⟩
  rfl

theorem State.live.run_ne_halted (h : s.live) (f : Fault) : s.run ≠ .halted f := by
  intro hf
  simp [State.live, hf, Run.isHalted] at h

theorem haltsPrecisely_of_live {t : State} (h : t.live) : HaltsPrecisely s t :=
  fun f hf => absurd hf (h.run_ne_halted f)

/-- The run state is what it was: no fault was raised. -/
theorem haltsPrecisely_of_run_eq {t : State} (hlive : s.live) (h : t.run = s.run) : HaltsPrecisely s t :=
  haltsPrecisely_of_live ((congrArg Run.isHalted h).trans hlive)

theorem haltsPrecisely_loadProgram (hlive : s.live) (bytes : List Byte) : HaltsPrecisely s (loadProgram s bytes) := by
  rcases loadProgram_cases s bytes with ⟨f, hf⟩ | ⟨-, hcopy⟩
  · exact hf ▸ haltsPrecisely_halt s f
  · rw [hcopy]; exact haltsPrecisely_of_run_eq hlive rfl

/-- Of the ways an instruction can end only the fault halts. -/
theorem Ends.eq_faulted {i : Instr} {t : State} (hends : Ends s i t) (hlive : s.live) {f : Fault}
    (hhalt : t.run = .halted f) : t = faulted s f := by
  have hne : s.run ≠ .halted f := hlive.run_ne_halted f
  cases hends with
  | fault => cases hhalt; rfl
  | waitKey => cases hhalt
  | skip => exact absurd (State.skipIf_run .. ▸ hhalt) hne
  | _ => exact absurd hhalt hne

/-- The fault's step back by 2 undoes the advance (40_cycle.md R55). -/
theorem faulted_advance (s : State) (f : Fault) : faulted s.advance f = s.halt f := by
  simp only [faulted, State.halt, State.advance_pc, BitVec.add_sub_cancel]
  rfl

theorem haltsPrecisely_cycle (hlive : s.live) {t : State} (h : cycle s = .next t) : HaltsPrecisely s t := by
  rcases cycle_cases h with ⟨f, rfl⟩ | ⟨-, i, -, hends⟩
  · exact haltsPrecisely_halt s f
  · intro f hhalt
    exact (hends.eq_faulted hlive hhalt).trans (faulted_advance s.markStarted f)

theorem haltsPrecisely_wakeUp (hlive : s.live) : HaltsPrecisely s (wakeUp s) := by
  unfold wakeUp
  split
  · exact haltsPrecisely_of_live rfl
  · exact haltsPrecisely_of_live hlive

theorem haltsPrecisely_effect {e : Event} {t : State} (hlive : s.live) (h : effect e s = .next t) :
    HaltsPrecisely s t := by
  cases e with
  | step => exact haltsPrecisely_cycle hlive h
  | reset => cases h; exact haltsPrecisely_of_live rfl
  | loadRom bytes => cases h; exact haltsPrecisely_loadProgram hlive bytes
  | wake => cases h; exact haltsPrecisely_wakeUp hlive
  | tick => cases h; exact haltsPrecisely_of_run_eq hlive rfl
  | setKey k pressed => cases h; exact haltsPrecisely_of_run_eq hlive (keyEvent_run s k pressed)

theorem haltsPrecisely_present {e : Event} {t : State} (hlive : s.live) (h : present e s = .next t) :
    HaltsPrecisely s t := by
  cases hen : enabled e s with
  | true => exact haltsPrecisely_effect hlive (present_of_enabled hen ▸ h)
  | false =>
    rw [present_of_disabled hen] at h
    cases h
    exact haltsPrecisely_of_live hlive

/-! ### `HALTED` -/

/-- In `HALTED` nothing but `reset` is enabled (40_cycle.md R60). -/
theorem enabled_of_halted {e : Event} {f : Fault} (hrun : s.run = .halted f) (he : e ≠ .reset) :
    enabled e s = false := by
  cases e with
  | reset => exact absurd rfl he
  | loadRom | step | wake | tick | setKey => simp [enabled, hrun, Run.isHalted]

theorem present_reset (s : State) : present .reset s = .next (resetMachine s) := rfl

end Sys2Proof.Machine

namespace Sys2Proof

open Machine

/-- Settles O47: only a step and a load can raise a fault, and a faulting step goes back over its own advance. -/
theorem faultsArePrecise : Obligations.FaultsArePrecise := fun _ _ _ f hlive h => haltsPrecisely_present hlive h f

/-- Settles O35: the two checks of the cycle in their order, the word being the one the fetch reads (O36). -/
theorem fetchAndDecodeFaults : Obligations.FetchAndDecodeFaults := by
  refine fun s hrun => ⟨fun hpc => ?_, fun w hpc hw hword => ?_⟩
  · have hfetch : fetchable s.pc = false := decide_eq_false (Nat.not_lt.mpr hpc)
    exact (present_step_of_running hrun).trans (cycle_of_not_fetchable hfetch)
  · have hfetch : fetchable s.pc = true := decide_eq_true (Nat.lt_succ_of_le hpc)
    obtain rfl : w = s.fetchWord := BitVec.eq_of_toNat_eq (hw.trans (fetchIsBigEndian s).symm)
    exact (present_step_of_running hrun).trans (cycle_of_not_decodes hfetch hword)

/-- Settles O38: `tick` is enabled in every live state and counts each timer down on its own. -/
theorem tickCountsBothTimersDown : Obligations.TickCountsBothTimersDown := fun s hlive =>
  ⟨_, present_tick_of_live hlive, countDown_toNat s.dt, countDown_toNat s.st, rfl, fun _ => rfl⟩

/-- Settles O39: the three branches of the event, each one write of the key's bit or none. -/
theorem setKeyUpdatesTheKeypad : Obligations.SetKeyUpdatesTheKeypad := by
  refine fun s k hlive => ⟨fun hup => ?_, fun hdown => ?_, ?_⟩
  · rw [present_setKey_of_live hlive, keyEvent_press_of_up hup]
    exact ⟨_, rfl, rfl, s.getKey_setKeyBit_eq_ite k true, rfl⟩
  · rw [present_setKey_of_live hlive, keyEvent_press_of_down hdown]
  · rw [present_setKey_of_live hlive, keyEvent_release]
    exact ⟨_, rfl, s.getKey_setKeyBit_eq_ite k false, rfl⟩

/-- Settles O43: no event but `reset` is enabled, and `reset` takes from its state the schedule and the draws alone. -/
theorem haltedIsLeftByResetAlone : Obligations.HaltedIsLeftByResetAlone := by
  refine fun s f hrun => ⟨fun e he => present_of_disabled (enabled_of_halted hrun he), _, present_reset s, rfl, ?_⟩
  intro other u hu
  rw [present_reset] at hu
  cases hu
  rfl

end Sys2Proof
end

section
/-! PROOF. The load and its bit `loaded_or_started` (70_reset_and_hazards.md R124): what a load does while the bit is clear
and while it is set, what sets it, and that no instruction observes it. -/

namespace Sys2Proof.Machine

variable {s : State}

/-! ### The load -/

theorem loadProgram_of_le {bytes : List Byte} (h : bytes.length ≤ 3584) :
    loadProgram s bytes = { s.markStarted with mem := s.mem.writeBytes 0x200 bytes } :=
  if_neg (by simp only [Config.programStart, Config.memSize]; omega)

theorem loadProgram_of_gt {bytes : List Byte} (h : 3584 < bytes.length) :
    loadProgram s bytes = s.markStarted.halt (.programTooLarge bytes.length) :=
  if_pos (by simp only [Config.programStart, Config.memSize]; omega)

theorem present_loadRom_of_clear (hlive : s.live) (hbit : s.loadedOrStarted = false) (bytes : List Byte) :
    present (.loadRom bytes) s = .next (loadProgram s bytes) :=
  present_of_enabled (by rw [State.live] at hlive; simp [enabled, hlive, hbit])

theorem present_loadRom_of_set (hbit : s.loadedOrStarted = true) (bytes : List Byte) :
    present (.loadRom bytes) s = .next s :=
  present_of_disabled (by simp [enabled, hbit])

/-! ### The bit -/

/-- However an instruction ends, the bit stays. -/
theorem Ends.loadedOrStarted_eq {i : Instr} {t : State} (hends : Ends s i t) :
    t.loadedOrStarted = s.loadedOrStarted := by
  cases hends with
  | skip => exact State.skipIf_loadedOrStarted ..
  | _ => rfl

theorem cycle_loadedOrStarted {t : State} (h : cycle s = .next t) : t.loadedOrStarted = true := by
  rcases cycle_cases h with ⟨f, rfl⟩ | ⟨-, i, -, hends⟩
  · rfl
  · exact hends.loadedOrStarted_eq

/-- The state with the bit at a given value. -/
def State.withBit (s : State) (b : Bool) : State := { s with loadedOrStarted := b }

variable {b : Bool} {t : State}

theorem skipIf_withBit (s : State) (taken b : Bool) : (s.withBit b).skipIf taken = (s.skipIf taken).withBit b := by
  cases taken <;> rfl

theorem withData_withBit {n : Nat} {rest rest' : Result} (h : withData s n rest = .next t)
    (hrest : rest = .next t → rest' = .next (t.withBit b)) : withData (s.withBit b) n rest' = .next (t.withBit b) := by
  cases hfits : s.dataFits n with
  | true =>
    rw [withData_fits rest hfits] at h
    exact (withData_fits (s := s.withBit b) rest' hfits).trans (hrest h)
  | false =>
    rw [withData_faults rest hfits] at h
    cases h
    exact withData_faults (s := s.withBit b) rest' hfits

/-- A key skip looks at the keypad and at `V[x]` only. -/
theorem withKey_skipIf_withBit {x : Reg} {taken : Key → Bool}
    (h : withKey s x (fun k => .next (s.skipIf (taken k))) = .next t) :
    withKey (s.withBit b) x (fun k => .next ((s.withBit b).skipIf (taken k))) = .next (t.withBit b) := by
  rcases Nat.lt_or_ge (s.getV x).toNat 16 with hlt | hge
  · rw [withKey_of_lt _ hlt] at h
    cases h
    exact (withKey_of_lt (s := s.withBit b) _ hlt).trans (congrArg _ (skipIf_withBit ..))
  · rw [withKey_of_ge _ hge] at h
    cases h
    exact withKey_of_ge (s := s.withBit b) _ hge

theorem execRet_withBit (h : execRet s = .next t) : execRet (s.withBit b) = .next (t.withBit b) := by
  by_cases hpos : 0 < s.sp.val
  · rw [execRet_of_pos hpos] at h
    cases h
    exact execRet_of_pos (s := s.withBit b) hpos
  · rw [execRet_of_empty hpos] at h
    cases h
    exact execRet_of_empty (s := s.withBit b) hpos

theorem execCall_withBit {nnn : Addr} (h : execCall nnn s = .next t) :
    execCall nnn (s.withBit b) = .next (t.withBit b) := by
  by_cases hlt : s.sp.val < Config.stackDepth
  · rw [execCall_of_lt nnn hlt] at h
    cases h
    exact execCall_of_lt (s := s.withBit b) nnn hlt
  · rw [execCall_of_full nnn hlt] at h
    cases h
    exact execCall_of_full (s := s.withBit b) nnn hlt

/-- "No instruction can observe that bit": run from a state with another bit, it ends in the same state with that bit. -/
theorem exec_withBit {i : Instr} (h : exec i s = .next t) : exec i (s.withBit b) = .next (t.withBit b) := by
  cases i with
  | ret => exact execRet_withBit h
  | call nnn => exact execCall_withBit h
  | skipEq x kk | skipNeq x kk | skipEqReg x y | skipNeqReg x y => cases h; exact congrArg _ (skipIf_withBit ..)
  | skipKeyPressed x | skipKeyNotPressed x => exact withKey_skipIf_withBit h
  | draw x y n | storeBcd x | storeRegs x | loadRegs x => exact withData_withBit h (by rintro ⟨⟩; rfl)
  | _ => cases h; rfl

end Sys2Proof.Machine

namespace Sys2Proof

open Machine

/-- Settles O42: a load on a clear bit has its two cases on the length, a set bit disables it; a cycle and `reset` give
the bit its value, and a change of it commutes with every instruction. -/
theorem loadRomCopiesOrFaults : Obligations.LoadRomCopiesOrFaults := by
  refine fun s bytes hlive => ⟨fun hbit hfits => ?_, fun hbit hlong => ?_,
    fun hset => present_loadRom_of_set hset bytes, fun t hrun h => ?_, ⟨_, present_reset s, rfl⟩,
    fun _ _ _ => exec_withBit⟩
  · rw [present_loadRom_of_clear hlive hbit, loadProgram_of_le hfits]
    refine ⟨_, rfl, fun k hk => ?_, fun a => Memory.read_writeBytes_outside s.mem 0x200 bytes, rfl⟩
    exact Memory.read_writeBytes_getElem s.mem 0x200 bytes hk
  · rw [present_loadRom_of_clear hlive hbit, loadProgram_of_gt hlong]
    rfl
  · exact cycle_loadedOrStarted (present_step_of_running hrun ▸ h)

end Sys2Proof
end
